-- ==== Sys2Proof/Word.lean ====
section
/-! DEFINITION. The machine's word types: bytes, 16-bit words, 24-bit addresses, and the two operand widths. -/

namespace Sys2Proof

/-- A byte (R6: the data bus is 8 bits wide). -/
abbrev Byte := BitVec 8

/-- A 16-bit value: the accumulator, an index register, an offset inside a bank (R6, R11). -/
abbrev Word := BitVec 16

/-- A 24-bit address, `bank ++ offset` (R6, R60). -/
abbrev Addr := BitVec 24

/-- The two widths a `P.m` or `P.x` governed operand can have (R12). -/
inductive Width where
  | w8
  | w16
deriving DecidableEq, Repr

end Sys2Proof
end

