-- ==== Sys2Proof/Syntax.lean ====
section
/-! DEFINITION. The instruction set as syntax: one constructor per row of the opcode map (R113), with the operand bytes of its
layout (R102) as arguments; those with operand bytes first, those of layout `F0` after them, each in opcode order (the compiler of Lean
gives no tag above 244 to a constructor with arguments). A constructor is named by its mnemonic and, where the mnemonic has several forms, by its
addressing mode (R114). An immediate of layout `FM` or `FX` is held in 16 bits; where the governing flag makes it one byte, that
byte is the low one (R105, `Instr.wf`). -/

namespace Sys2Proof

/-- The 256 instructions of R113. -/
inductive Instr where
  /-- `$00` BRK `#sig8`: R345, R131. -/
  | brk (sig : Byte)
  /-- `$01` ORA `(d,X)`: R251, R145. -/
  | oraDpIndX (d : Byte)
  /-- `$02` COP `#sig8`: R346, R131. -/
  | cop (sig : Byte)
  /-- `$03` ORA `d,S`: R251, R149. -/
  | oraSr (d : Byte)
  /-- `$04` TSB `d`: R255, R141. -/
  | tsbDp (d : Byte)
  /-- `$05` ORA `d`: R251, R141. -/
  | oraDp (d : Byte)
  /-- `$06` ASL `d`: R256, R141. -/
  | aslDp (d : Byte)
  /-- `$07` ORA `[d]`: R251, R147. -/
  | oraDpIndLong (d : Byte)
  /-- `$09` ORA `#const`: R251, R131. -/
  | oraImm (v : Word)
  /-- `$0C` TSB `a`: R255, R132. -/
  | tsbAbs (a : Word)
  /-- `$0D` ORA `a`: R251, R132. -/
  | oraAbs (a : Word)
  /-- `$0E` ASL `a`: R256, R132. -/
  | aslAbs (a : Word)
  /-- `$0F` ORA `al`: R251, R135. -/
  | oraLong (a : Addr)
  /-- `$10` BPL `label (r)`: R286, R154. -/
  | bpl (disp : Byte)
  /-- `$11` ORA `(d),Y`: R251, R146. -/
  | oraDpIndY (d : Byte)
  /-- `$12` ORA `(d)`: R251, R144. -/
  | oraDpInd (d : Byte)
  /-- `$13` ORA `(d,S),Y`: R251, R150. -/
  | oraSrIndY (d : Byte)
  /-- `$14` TRB `d`: R254, R141. -/
  | trbDp (d : Byte)
  /-- `$15` ORA `d,X`: R251, R142. -/
  | oraDpX (d : Byte)
  /-- `$16` ASL `d,X`: R256, R142. -/
  | aslDpX (d : Byte)
  /-- `$17` ORA `[d],Y`: R251, R148. -/
  | oraDpIndLongY (d : Byte)
  /-- `$19` ORA `a,Y`: R251, R134. -/
  | oraAbsY (a : Word)
  /-- `$1C` TRB `a`: R254, R132. -/
  | trbAbs (a : Word)
  /-- `$1D` ORA `a,X`: R251, R133. -/
  | oraAbsX (a : Word)
  /-- `$1E` ASL `a,X`: R256, R133. -/
  | aslAbsX (a : Word)
  /-- `$1F` ORA `al,X`: R251, R136. -/
  | oraLongX (a : Addr)
  /-- `$20` JSR `a`: R302, R137. -/
  | jsrAbs (a : Word)
  /-- `$21` AND `(d,X)`: R250, R145. -/
  | andDpIndX (d : Byte)
  /-- `$22` JSL `al`: R303, R135. -/
  | jsl (a : Addr)
  /-- `$23` AND `d,S`: R250, R149. -/
  | andSr (d : Byte)
  /-- `$24` BIT `d`: R253, R141. -/
  | bitDp (d : Byte)
  /-- `$25` AND `d`: R250, R141. -/
  | andDp (d : Byte)
  /-- `$26` ROL `d`: R258, R141. -/
  | rolDp (d : Byte)
  /-- `$27` AND `[d]`: R250, R147. -/
  | andDpIndLong (d : Byte)
  /-- `$29` AND `#const`: R250, R131. -/
  | andImm (v : Word)
  /-- `$2C` BIT `a`: R253, R132. -/
  | bitAbs (a : Word)
  /-- `$2D` AND `a`: R250, R132. -/
  | andAbs (a : Word)
  /-- `$2E` ROL `a`: R258, R132. -/
  | rolAbs (a : Word)
  /-- `$2F` AND `al`: R250, R135. -/
  | andLong (a : Addr)
  /-- `$30` BMI `label (r)`: R285, R154. -/
  | bmi (disp : Byte)
  /-- `$31` AND `(d),Y`: R250, R146. -/
  | andDpIndY (d : Byte)
  /-- `$32` AND `(d)`: R250, R144. -/
  | andDpInd (d : Byte)
  /-- `$33` AND `(d,S),Y`: R250, R150. -/
  | andSrIndY (d : Byte)
  /-- `$34` BIT `d,X`: R253, R142. -/
  | bitDpX (d : Byte)
  /-- `$35` AND `d,X`: R250, R142. -/
  | andDpX (d : Byte)
  /-- `$36` ROL `d,X`: R258, R142. -/
  | rolDpX (d : Byte)
  /-- `$37` AND `[d],Y`: R250, R148. -/
  | andDpIndLongY (d : Byte)
  /-- `$39` AND `a,Y`: R250, R134. -/
  | andAbsY (a : Word)
  /-- `$3C` BIT `a,X`: R253, R133. -/
  | bitAbsX (a : Word)
  /-- `$3D` AND `a,X`: R250, R133. -/
  | andAbsX (a : Word)
  /-- `$3E` ROL `a,X`: R258, R133. -/
  | rolAbsX (a : Word)
  /-- `$3F` AND `al,X`: R250, R136. -/
  | andLongX (a : Addr)
  /-- `$41` EOR `(d,X)`: R252, R145. -/
  | eorDpIndX (d : Byte)
  /-- `$42` WDM `#sig8`: R331, R131. -/
  | wdm (sig : Byte)
  /-- `$43` EOR `d,S`: R252, R149. -/
  | eorSr (d : Byte)
  /-- `$44` MVP `src,dst`: R361, R156. -/
  | mvp (dst : Byte) (src : Byte)
  /-- `$45` EOR `d`: R252, R141. -/
  | eorDp (d : Byte)
  /-- `$46` LSR `d`: R257, R141. -/
  | lsrDp (d : Byte)
  /-- `$47` EOR `[d]`: R252, R147. -/
  | eorDpIndLong (d : Byte)
  /-- `$49` EOR `#const`: R252, R131. -/
  | eorImm (v : Word)
  /-- `$4C` JMP `a`: R300, R137. -/
  | jmpAbs (a : Word)
  /-- `$4D` EOR `a`: R252, R132. -/
  | eorAbs (a : Word)
  /-- `$4E` LSR `a`: R257, R132. -/
  | lsrAbs (a : Word)
  /-- `$4F` EOR `al`: R252, R135. -/
  | eorLong (a : Addr)
  /-- `$50` BVC `label (r)`: R287, R154. -/
  | bvc (disp : Byte)
  /-- `$51` EOR `(d),Y`: R252, R146. -/
  | eorDpIndY (d : Byte)
  /-- `$52` EOR `(d)`: R252, R144. -/
  | eorDpInd (d : Byte)
  /-- `$53` EOR `(d,S),Y`: R252, R150. -/
  | eorSrIndY (d : Byte)
  /-- `$54` MVN `src,dst`: R360, R156. -/
  | mvn (dst : Byte) (src : Byte)
  /-- `$55` EOR `d,X`: R252, R142. -/
  | eorDpX (d : Byte)
  /-- `$56` LSR `d,X`: R257, R142. -/
  | lsrDpX (d : Byte)
  /-- `$57` EOR `[d],Y`: R252, R148. -/
  | eorDpIndLongY (d : Byte)
  /-- `$59` EOR `a,Y`: R252, R134. -/
  | eorAbsY (a : Word)
  /-- `$5C` JML `al`: R301, R135. -/
  | jmlLong (a : Addr)
  /-- `$5D` EOR `a,X`: R252, R133. -/
  | eorAbsX (a : Word)
  /-- `$5E` LSR `a,X`: R257, R133. -/
  | lsrAbsX (a : Word)
  /-- `$5F` EOR `al,X`: R252, R136. -/
  | eorLongX (a : Addr)
  /-- `$61` ADC `(d,X)`: R230, R145. -/
  | adcDpIndX (d : Byte)
  /-- `$62` PER `label (rl)`: R215, R155. -/
  | per (disp : Word)
  /-- `$63` ADC `d,S`: R230, R149. -/
  | adcSr (d : Byte)
  /-- `$64` STZ `d`: R176, R141. -/
  | stzDp (d : Byte)
  /-- `$65` ADC `d`: R230, R141. -/
  | adcDp (d : Byte)
  /-- `$66` ROR `d`: R259, R141. -/
  | rorDp (d : Byte)
  /-- `$67` ADC `[d]`: R230, R147. -/
  | adcDpIndLong (d : Byte)
  /-- `$69` ADC `#const`: R230, R131. -/
  | adcImm (v : Word)
  /-- `$6C` JMP `(a)`: R300, R138. -/
  | jmpAbsInd (a : Word)
  /-- `$6D` ADC `a`: R230, R132. -/
  | adcAbs (a : Word)
  /-- `$6E` ROR `a`: R259, R132. -/
  | rorAbs (a : Word)
  /-- `$6F` ADC `al`: R230, R135. -/
  | adcLong (a : Addr)
  /-- `$70` BVS `label (r)`: R288, R154. -/
  | bvs (disp : Byte)
  /-- `$71` ADC `(d),Y`: R230, R146. -/
  | adcDpIndY (d : Byte)
  /-- `$72` ADC `(d)`: R230, R144. -/
  | adcDpInd (d : Byte)
  /-- `$73` ADC `(d,S),Y`: R230, R150. -/
  | adcSrIndY (d : Byte)
  /-- `$74` STZ `d,X`: R176, R142. -/
  | stzDpX (d : Byte)
  /-- `$75` ADC `d,X`: R230, R142. -/
  | adcDpX (d : Byte)
  /-- `$76` ROR `d,X`: R259, R142. -/
  | rorDpX (d : Byte)
  /-- `$77` ADC `[d],Y`: R230, R148. -/
  | adcDpIndLongY (d : Byte)
  /-- `$79` ADC `a,Y`: R230, R134. -/
  | adcAbsY (a : Word)
  /-- `$7C` JMP `(a,X)`: R300, R139. -/
  | jmpAbsIndX (a : Word)
  /-- `$7D` ADC `a,X`: R230, R133. -/
  | adcAbsX (a : Word)
  /-- `$7E` ROR `a,X`: R259, R133. -/
  | rorAbsX (a : Word)
  /-- `$7F` ADC `al,X`: R230, R136. -/
  | adcLongX (a : Addr)
  /-- `$80` BRA `label (r)`: R289, R154. -/
  | bra (disp : Byte)
  /-- `$81` STA `(d,X)`: R173, R145. -/
  | staDpIndX (d : Byte)
  /-- `$82` BRL `label (rl)`: R290, R155. -/
  | brl (disp : Word)
  /-- `$83` STA `d,S`: R173, R149. -/
  | staSr (d : Byte)
  /-- `$84` STY `d`: R175, R141. -/
  | styDp (d : Byte)
  /-- `$85` STA `d`: R173, R141. -/
  | staDp (d : Byte)
  /-- `$86` STX `d`: R174, R141. -/
  | stxDp (d : Byte)
  /-- `$87` STA `[d]`: R173, R147. -/
  | staDpIndLong (d : Byte)
  /-- `$89` BIT `#const`: R253, R131. -/
  | bitImm (v : Word)
  /-- `$8C` STY `a`: R175, R132. -/
  | styAbs (a : Word)
  /-- `$8D` STA `a`: R173, R132. -/
  | staAbs (a : Word)
  /-- `$8E` STX `a`: R174, R132. -/
  | stxAbs (a : Word)
  /-- `$8F` STA `al`: R173, R135. -/
  | staLong (a : Addr)
  /-- `$90` BCC `label (r)`: R281, R154. -/
  | bcc (disp : Byte)
  /-- `$91` STA `(d),Y`: R173, R146. -/
  | staDpIndY (d : Byte)
  /-- `$92` STA `(d)`: R173, R144. -/
  | staDpInd (d : Byte)
  /-- `$93` STA `(d,S),Y`: R173, R150. -/
  | staSrIndY (d : Byte)
  /-- `$94` STY `d,X`: R175, R142. -/
  | styDpX (d : Byte)
  /-- `$95` STA `d,X`: R173, R142. -/
  | staDpX (d : Byte)
  /-- `$96` STX `d,Y`: R174, R143. -/
  | stxDpY (d : Byte)
  /-- `$97` STA `[d],Y`: R173, R148. -/
  | staDpIndLongY (d : Byte)
  /-- `$99` STA `a,Y`: R173, R134. -/
  | staAbsY (a : Word)
  /-- `$9C` STZ `a`: R176, R132. -/
  | stzAbs (a : Word)
  /-- `$9D` STA `a,X`: R173, R133. -/
  | staAbsX (a : Word)
  /-- `$9E` STZ `a,X`: R176, R133. -/
  | stzAbsX (a : Word)
  /-- `$9F` STA `al,X`: R173, R136. -/
  | staLongX (a : Addr)
  /-- `$A0` LDY `#const`: R172, R131. -/
  | ldyImm (v : Word)
  /-- `$A1` LDA `(d,X)`: R170, R145. -/
  | ldaDpIndX (d : Byte)
  /-- `$A2` LDX `#const`: R171, R131. -/
  | ldxImm (v : Word)
  /-- `$A3` LDA `d,S`: R170, R149. -/
  | ldaSr (d : Byte)
  /-- `$A4` LDY `d`: R172, R141. -/
  | ldyDp (d : Byte)
  /-- `$A5` LDA `d`: R170, R141. -/
  | ldaDp (d : Byte)
  /-- `$A6` LDX `d`: R171, R141. -/
  | ldxDp (d : Byte)
  /-- `$A7` LDA `[d]`: R170, R147. -/
  | ldaDpIndLong (d : Byte)
  /-- `$A9` LDA `#const`: R170, R131. -/
  | ldaImm (v : Word)
  /-- `$AC` LDY `a`: R172, R132. -/
  | ldyAbs (a : Word)
  /-- `$AD` LDA `a`: R170, R132. -/
  | ldaAbs (a : Word)
  /-- `$AE` LDX `a`: R171, R132. -/
  | ldxAbs (a : Word)
  /-- `$AF` LDA `al`: R170, R135. -/
  | ldaLong (a : Addr)
  /-- `$B0` BCS `label (r)`: R282, R154. -/
  | bcs (disp : Byte)
  /-- `$B1` LDA `(d),Y`: R170, R146. -/
  | ldaDpIndY (d : Byte)
  /-- `$B2` LDA `(d)`: R170, R144. -/
  | ldaDpInd (d : Byte)
  /-- `$B3` LDA `(d,S),Y`: R170, R150. -/
  | ldaSrIndY (d : Byte)
  /-- `$B4` LDY `d,X`: R172, R142. -/
  | ldyDpX (d : Byte)
  /-- `$B5` LDA `d,X`: R170, R142. -/
  | ldaDpX (d : Byte)
  /-- `$B6` LDX `d,Y`: R171, R143. -/
  | ldxDpY (d : Byte)
  /-- `$B7` LDA `[d],Y`: R170, R148. -/
  | ldaDpIndLongY (d : Byte)
  /-- `$B9` LDA `a,Y`: R170, R134. -/
  | ldaAbsY (a : Word)
  /-- `$BC` LDY `a,X`: R172, R133. -/
  | ldyAbsX (a : Word)
  /-- `$BD` LDA `a,X`: R170, R133. -/
  | ldaAbsX (a : Word)
  /-- `$BE` LDX `a,Y`: R171, R134. -/
  | ldxAbsY (a : Word)
  /-- `$BF` LDA `al,X`: R170, R136. -/
  | ldaLongX (a : Addr)
  /-- `$C0` CPY `#const`: R322, R131. -/
  | cpyImm (v : Word)
  /-- `$C1` CMP `(d,X)`: R320, R145. -/
  | cmpDpIndX (d : Byte)
  /-- `$C2` REP `#const8`: R336, R131. -/
  | rep (mask : Byte)
  /-- `$C3` CMP `d,S`: R320, R149. -/
  | cmpSr (d : Byte)
  /-- `$C4` CPY `d`: R322, R141. -/
  | cpyDp (d : Byte)
  /-- `$C5` CMP `d`: R320, R141. -/
  | cmpDp (d : Byte)
  /-- `$C6` DEC `d`: R237, R141. -/
  | decDp (d : Byte)
  /-- `$C7` CMP `[d]`: R320, R147. -/
  | cmpDpIndLong (d : Byte)
  /-- `$C9` CMP `#const`: R320, R131. -/
  | cmpImm (v : Word)
  /-- `$CC` CPY `a`: R322, R132. -/
  | cpyAbs (a : Word)
  /-- `$CD` CMP `a`: R320, R132. -/
  | cmpAbs (a : Word)
  /-- `$CE` DEC `a`: R237, R132. -/
  | decAbs (a : Word)
  /-- `$CF` CMP `al`: R320, R135. -/
  | cmpLong (a : Addr)
  /-- `$D0` BNE `label (r)`: R284, R154. -/
  | bne (disp : Byte)
  /-- `$D1` CMP `(d),Y`: R320, R146. -/
  | cmpDpIndY (d : Byte)
  /-- `$D2` CMP `(d)`: R320, R144. -/
  | cmpDpInd (d : Byte)
  /-- `$D3` CMP `(d,S),Y`: R320, R150. -/
  | cmpSrIndY (d : Byte)
  /-- `$D4` PEI `(d)`: R214, R144. -/
  | pei (d : Byte)
  /-- `$D5` CMP `d,X`: R320, R142. -/
  | cmpDpX (d : Byte)
  /-- `$D6` DEC `d,X`: R237, R142. -/
  | decDpX (d : Byte)
  /-- `$D7` CMP `[d],Y`: R320, R148. -/
  | cmpDpIndLongY (d : Byte)
  /-- `$D9` CMP `a,Y`: R320, R134. -/
  | cmpAbsY (a : Word)
  /-- `$DC` JML `[a]`: R301, R140. -/
  | jmlAbsIndLong (a : Word)
  /-- `$DD` CMP `a,X`: R320, R133. -/
  | cmpAbsX (a : Word)
  /-- `$DE` DEC `a,X`: R237, R133. -/
  | decAbsX (a : Word)
  /-- `$DF` CMP `al,X`: R320, R136. -/
  | cmpLongX (a : Addr)
  /-- `$E0` CPX `#const`: R321, R131. -/
  | cpxImm (v : Word)
  /-- `$E1` SBC `(d,X)`: R231, R145. -/
  | sbcDpIndX (d : Byte)
  /-- `$E2` SEP `#const8`: R337, R131. -/
  | sep (mask : Byte)
  /-- `$E3` SBC `d,S`: R231, R149. -/
  | sbcSr (d : Byte)
  /-- `$E4` CPX `d`: R321, R141. -/
  | cpxDp (d : Byte)
  /-- `$E5` SBC `d`: R231, R141. -/
  | sbcDp (d : Byte)
  /-- `$E6` INC `d`: R234, R141. -/
  | incDp (d : Byte)
  /-- `$E7` SBC `[d]`: R231, R147. -/
  | sbcDpIndLong (d : Byte)
  /-- `$E9` SBC `#const`: R231, R131. -/
  | sbcImm (v : Word)
  /-- `$EC` CPX `a`: R321, R132. -/
  | cpxAbs (a : Word)
  /-- `$ED` SBC `a`: R231, R132. -/
  | sbcAbs (a : Word)
  /-- `$EE` INC `a`: R234, R132. -/
  | incAbs (a : Word)
  /-- `$EF` SBC `al`: R231, R135. -/
  | sbcLong (a : Addr)
  /-- `$F0` BEQ `label (r)`: R283, R154. -/
  | beq (disp : Byte)
  /-- `$F1` SBC `(d),Y`: R231, R146. -/
  | sbcDpIndY (d : Byte)
  /-- `$F2` SBC `(d)`: R231, R144. -/
  | sbcDpInd (d : Byte)
  /-- `$F3` SBC `(d,S),Y`: R231, R150. -/
  | sbcSrIndY (d : Byte)
  /-- `$F4` PEA `a16 (or #const16)`: R213, R131. -/
  | pea (v : Word)
  /-- `$F5` SBC `d,X`: R231, R142. -/
  | sbcDpX (d : Byte)
  /-- `$F6` INC `d,X`: R234, R142. -/
  | incDpX (d : Byte)
  /-- `$F7` SBC `[d],Y`: R231, R148. -/
  | sbcDpIndLongY (d : Byte)
  /-- `$F9` SBC `a,Y`: R231, R134. -/
  | sbcAbsY (a : Word)
  /-- `$FC` JSR `(a,X)`: R302, R139. -/
  | jsrAbsIndX (a : Word)
  /-- `$FD` SBC `a,X`: R231, R133. -/
  | sbcAbsX (a : Word)
  /-- `$FE` INC `a,X`: R234, R133. -/
  | incAbsX (a : Word)
  /-- `$FF` SBC `al,X`: R231, R136. -/
  | sbcLongX (a : Addr)
  /-- `$08` PHP: R206, R153. -/
  | php
  /-- `$0A` ASL `A`: R256, R151. -/
  | aslAcc
  /-- `$0B` PHD: R204, R153. -/
  | phd
  /-- `$18` CLC: R338, R152. -/
  | clc
  /-- `$1A` INC `A`: R234, R151. -/
  | incAcc
  /-- `$1B` TCS: R185, R152. -/
  | tcs
  /-- `$28` PLP: R212, R153. -/
  | plp
  /-- `$2A` ROL `A`: R258, R151. -/
  | rolAcc
  /-- `$2B` PLD: R211, R153. -/
  | pld
  /-- `$38` SEC: R339, R152. -/
  | sec
  /-- `$3A` DEC `A`: R237, R151. -/
  | decAcc
  /-- `$3B` TSC: R186, R152. -/
  | tsc
  /-- `$40` RTI: R306, R153. -/
  | rti
  /-- `$48` PHA: R200, R153. -/
  | pha
  /-- `$4A` LSR `A`: R257, R151. -/
  | lsrAcc
  /-- `$4B` PHK: R205, R153. -/
  | phk
  /-- `$58` CLI: R340, R152. -/
  | cli
  /-- `$5A` PHY: R202, R153. -/
  | phy
  /-- `$5B` TCD: R183, R152. -/
  | tcd
  /-- `$60` RTS: R304, R153. -/
  | rts
  /-- `$68` PLA: R207, R153. -/
  | pla
  /-- `$6A` ROR `A`: R259, R151. -/
  | rorAcc
  /-- `$6B` RTL: R305, R153. -/
  | rtl
  /-- `$78` SEI: R341, R152. -/
  | sei
  /-- `$7A` PLY: R209, R153. -/
  | ply
  /-- `$7B` TDC: R184, R152. -/
  | tdc
  /-- `$88` DEY: R239, R152. -/
  | dey
  /-- `$8A` TXA: R179, R152. -/
  | txa
  /-- `$8B` PHB: R203, R153. -/
  | phb
  /-- `$98` TYA: R180, R152. -/
  | tya
  /-- `$9A` TXS: R187, R152. -/
  | txs
  /-- `$9B` TXY: R181, R152. -/
  | txy
  /-- `$A8` TAY: R178, R152. -/
  | tay
  /-- `$AA` TAX: R177, R152. -/
  | tax
  /-- `$AB` PLB: R210, R153. -/
  | plb
  /-- `$B8` CLV: R344, R152. -/
  | clv
  /-- `$BA` TSX: R188, R152. -/
  | tsx
  /-- `$BB` TYX: R182, R152. -/
  | tyx
  /-- `$C8` INY: R236, R152. -/
  | iny
  /-- `$CA` DEX: R238, R152. -/
  | dex
  /-- `$CB` WAI: R333, R152. -/
  | wai
  /-- `$D8` CLD: R342, R152. -/
  | cld
  /-- `$DA` PHX: R201, R153. -/
  | phx
  /-- `$DB` STP: R332, R152. -/
  | stp
  /-- `$E8` INX: R235, R152. -/
  | inx
  /-- `$EA` NOP: R330, R152. -/
  | nop
  /-- `$EB` XBA: R334, R152. -/
  | xba
  /-- `$F8` SED: R343, R152. -/
  | sed
  /-- `$FA` PLX: R208, R153. -/
  | plx
  /-- `$FB` XCE: R335, R152. -/
  | xce
deriving DecidableEq, Repr

end Sys2Proof
end

