-- ==== Sys2Proof/WellFormed.lean ====
section
/-! DEFINITION. Which instructions an encoding can hold under given flags `P.m`, `P.x`. Every operand byte is legal for every
opcode (R119); the one condition is that an `FM` or `FX` immediate is one byte when its flag is 1 (R105, R115). -/

namespace Sys2Proof

/-- An immediate fits the width its flag selects: one byte when the flag is 1, two when it is 0 (R105). -/
def immFits (flag : Bool) (v : Word) : Bool := !flag || decide (v.toNat < 256)

/-- The operands of the instruction are ones its encoding holds when `P.m = m` and `P.x = x`. -/
def Instr.wf (m x : Bool) : Instr → Bool
  | .oraImm v => immFits m v
  | .andImm v => immFits m v
  | .eorImm v => immFits m v
  | .adcImm v => immFits m v
  | .bitImm v => immFits m v
  | .ldyImm v => immFits x v
  | .ldxImm v => immFits x v
  | .ldaImm v => immFits m v
  | .cpyImm v => immFits x v
  | .cmpImm v => immFits m v
  | .cpxImm v => immFits x v
  | .sbcImm v => immFits m v
  | .brk _ | .oraDpIndX _ | .cop _ | .oraSr _ | .tsbDp _ | .oraDp _ | .aslDp _ | .oraDpIndLong _ | .php | .aslAcc
  | .phd | .tsbAbs _ | .oraAbs _ | .aslAbs _ | .oraLong _ | .bpl _ | .oraDpIndY _ | .oraDpInd _ | .oraSrIndY _
  | .trbDp _ | .oraDpX _ | .aslDpX _ | .oraDpIndLongY _ | .clc | .oraAbsY _ | .incAcc | .tcs | .trbAbs _ | .oraAbsX _
  | .aslAbsX _ | .oraLongX _ | .jsrAbs _ | .andDpIndX _ | .jsl _ | .andSr _ | .bitDp _ | .andDp _ | .rolDp _
  | .andDpIndLong _ | .plp | .rolAcc | .pld | .bitAbs _ | .andAbs _ | .rolAbs _ | .andLong _ | .bmi _ | .andDpIndY _
  | .andDpInd _ | .andSrIndY _ | .bitDpX _ | .andDpX _ | .rolDpX _ | .andDpIndLongY _ | .sec | .andAbsY _ | .decAcc
  | .tsc | .bitAbsX _ | .andAbsX _ | .rolAbsX _ | .andLongX _ | .rti | .eorDpIndX _ | .wdm _ | .eorSr _ | .mvp _ _
  | .eorDp _ | .lsrDp _ | .eorDpIndLong _ | .pha | .lsrAcc | .phk | .jmpAbs _ | .eorAbs _ | .lsrAbs _ | .eorLong _
  | .bvc _ | .eorDpIndY _ | .eorDpInd _ | .eorSrIndY _ | .mvn _ _ | .eorDpX _ | .lsrDpX _ | .eorDpIndLongY _ | .cli
  | .eorAbsY _ | .phy | .tcd | .jmlLong _ | .eorAbsX _ | .lsrAbsX _ | .eorLongX _ | .rts | .adcDpIndX _ | .per _
  | .adcSr _ | .stzDp _ | .adcDp _ | .rorDp _ | .adcDpIndLong _ | .pla | .rorAcc | .rtl | .jmpAbsInd _ | .adcAbs _
  | .rorAbs _ | .adcLong _ | .bvs _ | .adcDpIndY _ | .adcDpInd _ | .adcSrIndY _ | .stzDpX _ | .adcDpX _ | .rorDpX _
  | .adcDpIndLongY _ | .sei | .adcAbsY _ | .ply | .tdc | .jmpAbsIndX _ | .adcAbsX _ | .rorAbsX _ | .adcLongX _
  | .bra _ | .staDpIndX _ | .brl _ | .staSr _ | .styDp _ | .staDp _ | .stxDp _ | .staDpIndLong _ | .dey | .txa | .phb
  | .styAbs _ | .staAbs _ | .stxAbs _ | .staLong _ | .bcc _ | .staDpIndY _ | .staDpInd _ | .staSrIndY _ | .styDpX _
  | .staDpX _ | .stxDpY _ | .staDpIndLongY _ | .tya | .staAbsY _ | .txs | .txy | .stzAbs _ | .staAbsX _ | .stzAbsX _
  | .staLongX _ | .ldaDpIndX _ | .ldaSr _ | .ldyDp _ | .ldaDp _ | .ldxDp _ | .ldaDpIndLong _ | .tay | .tax | .plb
  | .ldyAbs _ | .ldaAbs _ | .ldxAbs _ | .ldaLong _ | .bcs _ | .ldaDpIndY _ | .ldaDpInd _ | .ldaSrIndY _ | .ldyDpX _
  | .ldaDpX _ | .ldxDpY _ | .ldaDpIndLongY _ | .clv | .ldaAbsY _ | .tsx | .tyx | .ldyAbsX _ | .ldaAbsX _ | .ldxAbsY _
  | .ldaLongX _ | .cmpDpIndX _ | .rep _ | .cmpSr _ | .cpyDp _ | .cmpDp _ | .decDp _ | .cmpDpIndLong _ | .iny | .dex
  | .wai | .cpyAbs _ | .cmpAbs _ | .decAbs _ | .cmpLong _ | .bne _ | .cmpDpIndY _ | .cmpDpInd _ | .cmpSrIndY _
  | .pei _ | .cmpDpX _ | .decDpX _ | .cmpDpIndLongY _ | .cld | .cmpAbsY _ | .phx | .stp | .jmlAbsIndLong _
  | .cmpAbsX _ | .decAbsX _ | .cmpLongX _ | .sbcDpIndX _ | .sep _ | .sbcSr _ | .cpxDp _ | .sbcDp _ | .incDp _
  | .sbcDpIndLong _ | .inx | .nop | .xba | .cpxAbs _ | .sbcAbs _ | .incAbs _ | .sbcLong _ | .beq _ | .sbcDpIndY _
  | .sbcDpInd _ | .sbcSrIndY _ | .pea _ | .sbcDpX _ | .incDpX _ | .sbcDpIndLongY _ | .sed | .sbcAbsY _ | .plx | .xce
  | .jsrAbsIndX _ | .sbcAbsX _ | .incAbsX _ | .sbcLongX _ => true

end Sys2Proof
end

