-- ==== Sys2Proof/Decode.lean ====
section
/-! DEFINITION. Bytes to instructions and back: the byte-order helpers (R9, R63, R64), the opcode map of R113, the decoder and the
encoder. Length and operand of the `FM` and `FX` opcodes depend on `P.m` and `P.x` (R115), so both take the two flags. -/

namespace Sys2Proof

/-- `lo8(v) = v[7:0]` (R9). -/
def lo8 (v : Word) : Byte := v.setWidth 8

/-- `hi8(v) = v[15:8]` (R9). -/
def hi8 (v : Word) : Byte := (v >>> 8).setWidth 8

/-- `hi ++ lo` (R9). -/
def join16 (hi lo : Byte) : Word := hi ++ lo

/-- `zext_16(b)` (R10). -/
def zext16 (b : Byte) : Word := b.setWidth 16

/-- `sext_16(b)` (R10). -/
def sext16 (b : Byte) : Word := b.signExtend 16

/-- The address `bank ++ offset` (R60). -/
def addr24 (bank : Byte) (off : Word) : Addr := bank ++ off

/-- The bank of an address, bits 23-16 (R60). -/
def Addr.bank (a : Addr) : Byte := (a >>> 16).setWidth 8

/-- The offset of an address inside its bank, bits 15-0 (R60). -/
def Addr.off (a : Addr) : Word := a.setWidth 16

/-- `zext_24(v)` (R10). -/
def zext24 (v : Word) : Addr := v.setWidth 24

/-- What the decoder may look at beside the opcode: the flags `P.m`, `P.x` (R115) and the bytes 1 to 3 (R102). -/
structure RawOperand where
  m : Bool
  x : Bool
  b1 : Byte
  b2 : Byte
  b3 : Byte
deriving DecidableEq, Repr

/-- Layout `F8`: byte 1 (R106 to R108, R112); also the destination bank of `FBM` (R111). -/
def RawOperand.o8 (r : RawOperand) : Byte := r.b1

/-- Byte 2, the source bank of `FBM` (R111). -/
def RawOperand.o8b (r : RawOperand) : Byte := r.b2

/-- Layout `F16`: `byte2 ++ byte1` (R109). -/
def RawOperand.o16 (r : RawOperand) : Word := join16 r.b2 r.b1

/-- Layout `F24`: `byte3 ++ byte2 ++ byte1` (R110). -/
def RawOperand.o24 (r : RawOperand) : Addr := addr24 r.b3 r.o16

/-- Layout `FM` (R105): one byte when `P.m = 1`, two when `P.m = 0`. -/
def RawOperand.immM (r : RawOperand) : Word := if r.m then zext16 r.b1 else r.o16

/-- Layout `FX` (R105): one byte when `P.x = 1`, two when `P.x = 0`. -/
def RawOperand.immX (r : RawOperand) : Word := if r.x then zext16 r.b1 else r.o16

/-- Row `0x` of the opcode map (R113): the instruction in each column. The column is below 16, so the case after 14 is `xF`. -/
def opcodeRow0 (col : Nat) (r : RawOperand) : Instr :=
  match col with
  | 0 => .brk r.o8
  | 1 => .oraDpIndX r.o8
  | 2 => .cop r.o8
  | 3 => .oraSr r.o8
  | 4 => .tsbDp r.o8
  | 5 => .oraDp r.o8
  | 6 => .aslDp r.o8
  | 7 => .oraDpIndLong r.o8
  | 8 => .php
  | 9 => .oraImm r.immM
  | 10 => .aslAcc
  | 11 => .phd
  | 12 => .tsbAbs r.o16
  | 13 => .oraAbs r.o16
  | 14 => .aslAbs r.o16
  | _ => .oraLong r.o24

/-- Row `1x` of the opcode map (R113): the instruction in each column. The column is below 16, so the case after 14 is `xF`. -/
def opcodeRow1 (col : Nat) (r : RawOperand) : Instr :=
  match col with
  | 0 => .bpl r.o8
  | 1 => .oraDpIndY r.o8
  | 2 => .oraDpInd r.o8
  | 3 => .oraSrIndY r.o8
  | 4 => .trbDp r.o8
  | 5 => .oraDpX r.o8
  | 6 => .aslDpX r.o8
  | 7 => .oraDpIndLongY r.o8
  | 8 => .clc
  | 9 => .oraAbsY r.o16
  | 10 => .incAcc
  | 11 => .tcs
  | 12 => .trbAbs r.o16
  | 13 => .oraAbsX r.o16
  | 14 => .aslAbsX r.o16
  | _ => .oraLongX r.o24

/-- Row `2x` of the opcode map (R113): the instruction in each column. The column is below 16, so the case after 14 is `xF`. -/
def opcodeRow2 (col : Nat) (r : RawOperand) : Instr :=
  match col with
  | 0 => .jsrAbs r.o16
  | 1 => .andDpIndX r.o8
  | 2 => .jsl r.o24
  | 3 => .andSr r.o8
  | 4 => .bitDp r.o8
  | 5 => .andDp r.o8
  | 6 => .rolDp r.o8
  | 7 => .andDpIndLong r.o8
  | 8 => .plp
  | 9 => .andImm r.immM
  | 10 => .rolAcc
  | 11 => .pld
  | 12 => .bitAbs r.o16
  | 13 => .andAbs r.o16
  | 14 => .rolAbs r.o16
  | _ => .andLong r.o24

/-- Row `3x` of the opcode map (R113): the instruction in each column. The column is below 16, so the case after 14 is `xF`. -/
def opcodeRow3 (col : Nat) (r : RawOperand) : Instr :=
  match col with
  | 0 => .bmi r.o8
  | 1 => .andDpIndY r.o8
  | 2 => .andDpInd r.o8
  | 3 => .andSrIndY r.o8
  | 4 => .bitDpX r.o8
  | 5 => .andDpX r.o8
  | 6 => .rolDpX r.o8
  | 7 => .andDpIndLongY r.o8
  | 8 => .sec
  | 9 => .andAbsY r.o16
  | 10 => .decAcc
  | 11 => .tsc
  | 12 => .bitAbsX r.o16
  | 13 => .andAbsX r.o16
  | 14 => .rolAbsX r.o16
  | _ => .andLongX r.o24

/-- Row `4x` of the opcode map (R113): the instruction in each column. The column is below 16, so the case after 14 is `xF`. -/
def opcodeRow4 (col : Nat) (r : RawOperand) : Instr :=
  match col with
  | 0 => .rti
  | 1 => .eorDpIndX r.o8
  | 2 => .wdm r.o8
  | 3 => .eorSr r.o8
  | 4 => .mvp r.o8 r.o8b
  | 5 => .eorDp r.o8
  | 6 => .lsrDp r.o8
  | 7 => .eorDpIndLong r.o8
  | 8 => .pha
  | 9 => .eorImm r.immM
  | 10 => .lsrAcc
  | 11 => .phk
  | 12 => .jmpAbs r.o16
  | 13 => .eorAbs r.o16
  | 14 => .lsrAbs r.o16
  | _ => .eorLong r.o24

/-- Row `5x` of the opcode map (R113): the instruction in each column. The column is below 16, so the case after 14 is `xF`. -/
def opcodeRow5 (col : Nat) (r : RawOperand) : Instr :=
  match col with
  | 0 => .bvc r.o8
  | 1 => .eorDpIndY r.o8
  | 2 => .eorDpInd r.o8
  | 3 => .eorSrIndY r.o8
  | 4 => .mvn r.o8 r.o8b
  | 5 => .eorDpX r.o8
  | 6 => .lsrDpX r.o8
  | 7 => .eorDpIndLongY r.o8
  | 8 => .cli
  | 9 => .eorAbsY r.o16
  | 10 => .phy
  | 11 => .tcd
  | 12 => .jmlLong r.o24
  | 13 => .eorAbsX r.o16
  | 14 => .lsrAbsX r.o16
  | _ => .eorLongX r.o24

/-- Row `6x` of the opcode map (R113): the instruction in each column. The column is below 16, so the case after 14 is `xF`. -/
def opcodeRow6 (col : Nat) (r : RawOperand) : Instr :=
  match col with
  | 0 => .rts
  | 1 => .adcDpIndX r.o8
  | 2 => .per r.o16
  | 3 => .adcSr r.o8
  | 4 => .stzDp r.o8
  | 5 => .adcDp r.o8
  | 6 => .rorDp r.o8
  | 7 => .adcDpIndLong r.o8
  | 8 => .pla
  | 9 => .adcImm r.immM
  | 10 => .rorAcc
  | 11 => .rtl
  | 12 => .jmpAbsInd r.o16
  | 13 => .adcAbs r.o16
  | 14 => .rorAbs r.o16
  | _ => .adcLong r.o24

/-- Row `7x` of the opcode map (R113): the instruction in each column. The column is below 16, so the case after 14 is `xF`. -/
def opcodeRow7 (col : Nat) (r : RawOperand) : Instr :=
  match col with
  | 0 => .bvs r.o8
  | 1 => .adcDpIndY r.o8
  | 2 => .adcDpInd r.o8
  | 3 => .adcSrIndY r.o8
  | 4 => .stzDpX r.o8
  | 5 => .adcDpX r.o8
  | 6 => .rorDpX r.o8
  | 7 => .adcDpIndLongY r.o8
  | 8 => .sei
  | 9 => .adcAbsY r.o16
  | 10 => .ply
  | 11 => .tdc
  | 12 => .jmpAbsIndX r.o16
  | 13 => .adcAbsX r.o16
  | 14 => .rorAbsX r.o16
  | _ => .adcLongX r.o24

/-- Row `8x` of the opcode map (R113): the instruction in each column. The column is below 16, so the case after 14 is `xF`. -/
def opcodeRow8 (col : Nat) (r : RawOperand) : Instr :=
  match col with
  | 0 => .bra r.o8
  | 1 => .staDpIndX r.o8
  | 2 => .brl r.o16
  | 3 => .staSr r.o8
  | 4 => .styDp r.o8
  | 5 => .staDp r.o8
  | 6 => .stxDp r.o8
  | 7 => .staDpIndLong r.o8
  | 8 => .dey
  | 9 => .bitImm r.immM
  | 10 => .txa
  | 11 => .phb
  | 12 => .styAbs r.o16
  | 13 => .staAbs r.o16
  | 14 => .stxAbs r.o16
  | _ => .staLong r.o24

/-- Row `9x` of the opcode map (R113): the instruction in each column. The column is below 16, so the case after 14 is `xF`. -/
def opcodeRow9 (col : Nat) (r : RawOperand) : Instr :=
  match col with
  | 0 => .bcc r.o8
  | 1 => .staDpIndY r.o8
  | 2 => .staDpInd r.o8
  | 3 => .staSrIndY r.o8
  | 4 => .styDpX r.o8
  | 5 => .staDpX r.o8
  | 6 => .stxDpY r.o8
  | 7 => .staDpIndLongY r.o8
  | 8 => .tya
  | 9 => .staAbsY r.o16
  | 10 => .txs
  | 11 => .txy
  | 12 => .stzAbs r.o16
  | 13 => .staAbsX r.o16
  | 14 => .stzAbsX r.o16
  | _ => .staLongX r.o24

/-- Row `Ax` of the opcode map (R113): the instruction in each column. The column is below 16, so the case after 14 is `xF`. -/
def opcodeRowA (col : Nat) (r : RawOperand) : Instr :=
  match col with
  | 0 => .ldyImm r.immX
  | 1 => .ldaDpIndX r.o8
  | 2 => .ldxImm r.immX
  | 3 => .ldaSr r.o8
  | 4 => .ldyDp r.o8
  | 5 => .ldaDp r.o8
  | 6 => .ldxDp r.o8
  | 7 => .ldaDpIndLong r.o8
  | 8 => .tay
  | 9 => .ldaImm r.immM
  | 10 => .tax
  | 11 => .plb
  | 12 => .ldyAbs r.o16
  | 13 => .ldaAbs r.o16
  | 14 => .ldxAbs r.o16
  | _ => .ldaLong r.o24

/-- Row `Bx` of the opcode map (R113): the instruction in each column. The column is below 16, so the case after 14 is `xF`. -/
def opcodeRowB (col : Nat) (r : RawOperand) : Instr :=
  match col with
  | 0 => .bcs r.o8
  | 1 => .ldaDpIndY r.o8
  | 2 => .ldaDpInd r.o8
  | 3 => .ldaSrIndY r.o8
  | 4 => .ldyDpX r.o8
  | 5 => .ldaDpX r.o8
  | 6 => .ldxDpY r.o8
  | 7 => .ldaDpIndLongY r.o8
  | 8 => .clv
  | 9 => .ldaAbsY r.o16
  | 10 => .tsx
  | 11 => .tyx
  | 12 => .ldyAbsX r.o16
  | 13 => .ldaAbsX r.o16
  | 14 => .ldxAbsY r.o16
  | _ => .ldaLongX r.o24

/-- Row `Cx` of the opcode map (R113): the instruction in each column. The column is below 16, so the case after 14 is `xF`. -/
def opcodeRowC (col : Nat) (r : RawOperand) : Instr :=
  match col with
  | 0 => .cpyImm r.immX
  | 1 => .cmpDpIndX r.o8
  | 2 => .rep r.o8
  | 3 => .cmpSr r.o8
  | 4 => .cpyDp r.o8
  | 5 => .cmpDp r.o8
  | 6 => .decDp r.o8
  | 7 => .cmpDpIndLong r.o8
  | 8 => .iny
  | 9 => .cmpImm r.immM
  | 10 => .dex
  | 11 => .wai
  | 12 => .cpyAbs r.o16
  | 13 => .cmpAbs r.o16
  | 14 => .decAbs r.o16
  | _ => .cmpLong r.o24

/-- Row `Dx` of the opcode map (R113): the instruction in each column. The column is below 16, so the case after 14 is `xF`. -/
def opcodeRowD (col : Nat) (r : RawOperand) : Instr :=
  match col with
  | 0 => .bne r.o8
  | 1 => .cmpDpIndY r.o8
  | 2 => .cmpDpInd r.o8
  | 3 => .cmpSrIndY r.o8
  | 4 => .pei r.o8
  | 5 => .cmpDpX r.o8
  | 6 => .decDpX r.o8
  | 7 => .cmpDpIndLongY r.o8
  | 8 => .cld
  | 9 => .cmpAbsY r.o16
  | 10 => .phx
  | 11 => .stp
  | 12 => .jmlAbsIndLong r.o16
  | 13 => .cmpAbsX r.o16
  | 14 => .decAbsX r.o16
  | _ => .cmpLongX r.o24

/-- Row `Ex` of the opcode map (R113): the instruction in each column. The column is below 16, so the case after 14 is `xF`. -/
def opcodeRowE (col : Nat) (r : RawOperand) : Instr :=
  match col with
  | 0 => .cpxImm r.immX
  | 1 => .sbcDpIndX r.o8
  | 2 => .sep r.o8
  | 3 => .sbcSr r.o8
  | 4 => .cpxDp r.o8
  | 5 => .sbcDp r.o8
  | 6 => .incDp r.o8
  | 7 => .sbcDpIndLong r.o8
  | 8 => .inx
  | 9 => .sbcImm r.immM
  | 10 => .nop
  | 11 => .xba
  | 12 => .cpxAbs r.o16
  | 13 => .sbcAbs r.o16
  | 14 => .incAbs r.o16
  | _ => .sbcLong r.o24

/-- Row `Fx` of the opcode map (R113): the instruction in each column. The column is below 16, so the case after 14 is `xF`. -/
def opcodeRowF (col : Nat) (r : RawOperand) : Instr :=
  match col with
  | 0 => .beq r.o8
  | 1 => .sbcDpIndY r.o8
  | 2 => .sbcDpInd r.o8
  | 3 => .sbcSrIndY r.o8
  | 4 => .pea r.o16
  | 5 => .sbcDpX r.o8
  | 6 => .incDpX r.o8
  | 7 => .sbcDpIndLongY r.o8
  | 8 => .sed
  | 9 => .sbcAbsY r.o16
  | 10 => .plx
  | 11 => .xce
  | 12 => .jsrAbsIndX r.o16
  | 13 => .sbcAbsX r.o16
  | 14 => .incAbsX r.o16
  | _ => .sbcLongX r.o24

/-- The instruction an opcode byte selects, with its operand bytes: the opcode map of R113, row = high nibble, column = low
nibble. Total, since no opcode is illegal (R100, R116). The row is below 16, so the case after 14 is row `Fx`. -/
def decodeRaw (op : Byte) (r : RawOperand) : Instr :=
  match op.toNat / 16 with
  | 0 => opcodeRow0 (op.toNat % 16) r
  | 1 => opcodeRow1 (op.toNat % 16) r
  | 2 => opcodeRow2 (op.toNat % 16) r
  | 3 => opcodeRow3 (op.toNat % 16) r
  | 4 => opcodeRow4 (op.toNat % 16) r
  | 5 => opcodeRow5 (op.toNat % 16) r
  | 6 => opcodeRow6 (op.toNat % 16) r
  | 7 => opcodeRow7 (op.toNat % 16) r
  | 8 => opcodeRow8 (op.toNat % 16) r
  | 9 => opcodeRow9 (op.toNat % 16) r
  | 10 => opcodeRowA (op.toNat % 16) r
  | 11 => opcodeRowB (op.toNat % 16) r
  | 12 => opcodeRowC (op.toNat % 16) r
  | 13 => opcodeRowD (op.toNat % 16) r
  | 14 => opcodeRowE (op.toNat % 16) r
  | _ => opcodeRowF (op.toNat % 16) r

/-- The operand of an instruction in its layout (R102). -/
inductive Payload where
  | f0
  | f8 (o8 : Byte)
  | f16 (o16 : Word)
  | f24 (o24 : Addr)
  | fm (v : Word)
  | fx (v : Word)
  | fbm (dst src : Byte)
deriving DecidableEq, Repr

/-- The length of the instruction in bytes, opcode included (R103). -/
def Payload.length (m x : Bool) : Payload → Nat
  | .f0 => 1
  | .f8 _ => 2
  | .f16 _ => 3
  | .f24 _ => 4
  | .fm _ => if m then 2 else 3
  | .fx _ => if x then 2 else 3
  | .fbm _ _ => 3

/-- The 16-bit operand in fetch order, low byte first (R64). -/
def bytes16 (v : Word) : List Byte := [lo8 v, hi8 v]

/-- The operand bytes in the order they follow the opcode (R102, R105, R109 to R111). -/
def Payload.bytes (m x : Bool) : Payload → List Byte
  | .f0 => []
  | .f8 b => [b]
  | .f16 v => bytes16 v
  | .f24 a => bytes16 a.off ++ [a.bank]
  | .fm v => if m then [lo8 v] else bytes16 v
  | .fx v => if x then [lo8 v] else bytes16 v
  | .fbm dst src => [dst, src]

/-- The layout and operand of each instruction (R102, R113, R114). -/
def Instr.payload : Instr → Payload
  | .php | .aslAcc | .phd | .clc | .incAcc | .tcs | .plp | .rolAcc | .pld | .sec | .decAcc | .tsc | .rti | .pha
  | .lsrAcc | .phk | .cli | .phy | .tcd | .rts | .pla | .rorAcc | .rtl | .sei | .ply | .tdc | .dey | .txa | .phb
  | .tya | .txs | .txy | .tay | .tax | .plb | .clv | .tsx | .tyx | .iny | .dex | .wai | .cld | .phx | .stp | .inx
  | .nop | .xba | .sed | .plx | .xce => .f0
  | .brk b | .oraDpIndX b | .cop b | .oraSr b | .tsbDp b | .oraDp b | .aslDp b | .oraDpIndLong b | .bpl b
  | .oraDpIndY b | .oraDpInd b | .oraSrIndY b | .trbDp b | .oraDpX b | .aslDpX b | .oraDpIndLongY b | .andDpIndX b
  | .andSr b | .bitDp b | .andDp b | .rolDp b | .andDpIndLong b | .bmi b | .andDpIndY b | .andDpInd b | .andSrIndY b
  | .bitDpX b | .andDpX b | .rolDpX b | .andDpIndLongY b | .eorDpIndX b | .wdm b | .eorSr b | .eorDp b | .lsrDp b
  | .eorDpIndLong b | .bvc b | .eorDpIndY b | .eorDpInd b | .eorSrIndY b | .eorDpX b | .lsrDpX b | .eorDpIndLongY b
  | .adcDpIndX b | .adcSr b | .stzDp b | .adcDp b | .rorDp b | .adcDpIndLong b | .bvs b | .adcDpIndY b | .adcDpInd b
  | .adcSrIndY b | .stzDpX b | .adcDpX b | .rorDpX b | .adcDpIndLongY b | .bra b | .staDpIndX b | .staSr b | .styDp b
  | .staDp b | .stxDp b | .staDpIndLong b | .bcc b | .staDpIndY b | .staDpInd b | .staSrIndY b | .styDpX b
  | .staDpX b | .stxDpY b | .staDpIndLongY b | .ldaDpIndX b | .ldaSr b | .ldyDp b | .ldaDp b | .ldxDp b
  | .ldaDpIndLong b | .bcs b | .ldaDpIndY b | .ldaDpInd b | .ldaSrIndY b | .ldyDpX b | .ldaDpX b | .ldxDpY b
  | .ldaDpIndLongY b | .cmpDpIndX b | .rep b | .cmpSr b | .cpyDp b | .cmpDp b | .decDp b | .cmpDpIndLong b | .bne b
  | .cmpDpIndY b | .cmpDpInd b | .cmpSrIndY b | .pei b | .cmpDpX b | .decDpX b | .cmpDpIndLongY b | .sbcDpIndX b
  | .sep b | .sbcSr b | .cpxDp b | .sbcDp b | .incDp b | .sbcDpIndLong b | .beq b | .sbcDpIndY b | .sbcDpInd b
  | .sbcSrIndY b | .sbcDpX b | .incDpX b | .sbcDpIndLongY b => .f8 b
  | .tsbAbs v | .oraAbs v | .aslAbs v | .oraAbsY v | .trbAbs v | .oraAbsX v | .aslAbsX v | .jsrAbs v | .bitAbs v
  | .andAbs v | .rolAbs v | .andAbsY v | .bitAbsX v | .andAbsX v | .rolAbsX v | .jmpAbs v | .eorAbs v | .lsrAbs v
  | .eorAbsY v | .eorAbsX v | .lsrAbsX v | .per v | .jmpAbsInd v | .adcAbs v | .rorAbs v | .adcAbsY v | .jmpAbsIndX v
  | .adcAbsX v | .rorAbsX v | .brl v | .styAbs v | .staAbs v | .stxAbs v | .staAbsY v | .stzAbs v | .staAbsX v
  | .stzAbsX v | .ldyAbs v | .ldaAbs v | .ldxAbs v | .ldaAbsY v | .ldyAbsX v | .ldaAbsX v | .ldxAbsY v | .cpyAbs v
  | .cmpAbs v | .decAbs v | .cmpAbsY v | .jmlAbsIndLong v | .cmpAbsX v | .decAbsX v | .cpxAbs v | .sbcAbs v
  | .incAbs v | .pea v | .sbcAbsY v | .jsrAbsIndX v | .sbcAbsX v | .incAbsX v => .f16 v
  | .oraLong a | .oraLongX a | .jsl a | .andLong a | .andLongX a | .eorLong a | .jmlLong a | .eorLongX a | .adcLong a
  | .adcLongX a | .staLong a | .staLongX a | .ldaLong a | .ldaLongX a | .cmpLong a | .cmpLongX a | .sbcLong a
  | .sbcLongX a => .f24 a
  | .oraImm v | .andImm v | .eorImm v | .adcImm v | .bitImm v | .ldaImm v | .cmpImm v | .sbcImm v => .fm v
  | .ldyImm v | .ldxImm v | .cpyImm v | .cpxImm v => .fx v
  | .mvp dst src | .mvn dst src => .fbm dst src

/-- The opcode byte of each instruction (R113). -/
def Instr.opcode : Instr → Byte
  | .brk _ => 0x00
  | .oraDpIndX _ => 0x01
  | .cop _ => 0x02
  | .oraSr _ => 0x03
  | .tsbDp _ => 0x04
  | .oraDp _ => 0x05
  | .aslDp _ => 0x06
  | .oraDpIndLong _ => 0x07
  | .php => 0x08
  | .oraImm _ => 0x09
  | .aslAcc => 0x0A
  | .phd => 0x0B
  | .tsbAbs _ => 0x0C
  | .oraAbs _ => 0x0D
  | .aslAbs _ => 0x0E
  | .oraLong _ => 0x0F
  | .bpl _ => 0x10
  | .oraDpIndY _ => 0x11
  | .oraDpInd _ => 0x12
  | .oraSrIndY _ => 0x13
  | .trbDp _ => 0x14
  | .oraDpX _ => 0x15
  | .aslDpX _ => 0x16
  | .oraDpIndLongY _ => 0x17
  | .clc => 0x18
  | .oraAbsY _ => 0x19
  | .incAcc => 0x1A
  | .tcs => 0x1B
  | .trbAbs _ => 0x1C
  | .oraAbsX _ => 0x1D
  | .aslAbsX _ => 0x1E
  | .oraLongX _ => 0x1F
  | .jsrAbs _ => 0x20
  | .andDpIndX _ => 0x21
  | .jsl _ => 0x22
  | .andSr _ => 0x23
  | .bitDp _ => 0x24
  | .andDp _ => 0x25
  | .rolDp _ => 0x26
  | .andDpIndLong _ => 0x27
  | .plp => 0x28
  | .andImm _ => 0x29
  | .rolAcc => 0x2A
  | .pld => 0x2B
  | .bitAbs _ => 0x2C
  | .andAbs _ => 0x2D
  | .rolAbs _ => 0x2E
  | .andLong _ => 0x2F
  | .bmi _ => 0x30
  | .andDpIndY _ => 0x31
  | .andDpInd _ => 0x32
  | .andSrIndY _ => 0x33
  | .bitDpX _ => 0x34
  | .andDpX _ => 0x35
  | .rolDpX _ => 0x36
  | .andDpIndLongY _ => 0x37
  | .sec => 0x38
  | .andAbsY _ => 0x39
  | .decAcc => 0x3A
  | .tsc => 0x3B
  | .bitAbsX _ => 0x3C
  | .andAbsX _ => 0x3D
  | .rolAbsX _ => 0x3E
  | .andLongX _ => 0x3F
  | .rti => 0x40
  | .eorDpIndX _ => 0x41
  | .wdm _ => 0x42
  | .eorSr _ => 0x43
  | .mvp _ _ => 0x44
  | .eorDp _ => 0x45
  | .lsrDp _ => 0x46
  | .eorDpIndLong _ => 0x47
  | .pha => 0x48
  | .eorImm _ => 0x49
  | .lsrAcc => 0x4A
  | .phk => 0x4B
  | .jmpAbs _ => 0x4C
  | .eorAbs _ => 0x4D
  | .lsrAbs _ => 0x4E
  | .eorLong _ => 0x4F
  | .bvc _ => 0x50
  | .eorDpIndY _ => 0x51
  | .eorDpInd _ => 0x52
  | .eorSrIndY _ => 0x53
  | .mvn _ _ => 0x54
  | .eorDpX _ => 0x55
  | .lsrDpX _ => 0x56
  | .eorDpIndLongY _ => 0x57
  | .cli => 0x58
  | .eorAbsY _ => 0x59
  | .phy => 0x5A
  | .tcd => 0x5B
  | .jmlLong _ => 0x5C
  | .eorAbsX _ => 0x5D
  | .lsrAbsX _ => 0x5E
  | .eorLongX _ => 0x5F
  | .rts => 0x60
  | .adcDpIndX _ => 0x61
  | .per _ => 0x62
  | .adcSr _ => 0x63
  | .stzDp _ => 0x64
  | .adcDp _ => 0x65
  | .rorDp _ => 0x66
  | .adcDpIndLong _ => 0x67
  | .pla => 0x68
  | .adcImm _ => 0x69
  | .rorAcc => 0x6A
  | .rtl => 0x6B
  | .jmpAbsInd _ => 0x6C
  | .adcAbs _ => 0x6D
  | .rorAbs _ => 0x6E
  | .adcLong _ => 0x6F
  | .bvs _ => 0x70
  | .adcDpIndY _ => 0x71
  | .adcDpInd _ => 0x72
  | .adcSrIndY _ => 0x73
  | .stzDpX _ => 0x74
  | .adcDpX _ => 0x75
  | .rorDpX _ => 0x76
  | .adcDpIndLongY _ => 0x77
  | .sei => 0x78
  | .adcAbsY _ => 0x79
  | .ply => 0x7A
  | .tdc => 0x7B
  | .jmpAbsIndX _ => 0x7C
  | .adcAbsX _ => 0x7D
  | .rorAbsX _ => 0x7E
  | .adcLongX _ => 0x7F
  | .bra _ => 0x80
  | .staDpIndX _ => 0x81
  | .brl _ => 0x82
  | .staSr _ => 0x83
  | .styDp _ => 0x84
  | .staDp _ => 0x85
  | .stxDp _ => 0x86
  | .staDpIndLong _ => 0x87
  | .dey => 0x88
  | .bitImm _ => 0x89
  | .txa => 0x8A
  | .phb => 0x8B
  | .styAbs _ => 0x8C
  | .staAbs _ => 0x8D
  | .stxAbs _ => 0x8E
  | .staLong _ => 0x8F
  | .bcc _ => 0x90
  | .staDpIndY _ => 0x91
  | .staDpInd _ => 0x92
  | .staSrIndY _ => 0x93
  | .styDpX _ => 0x94
  | .staDpX _ => 0x95
  | .stxDpY _ => 0x96
  | .staDpIndLongY _ => 0x97
  | .tya => 0x98
  | .staAbsY _ => 0x99
  | .txs => 0x9A
  | .txy => 0x9B
  | .stzAbs _ => 0x9C
  | .staAbsX _ => 0x9D
  | .stzAbsX _ => 0x9E
  | .staLongX _ => 0x9F
  | .ldyImm _ => 0xA0
  | .ldaDpIndX _ => 0xA1
  | .ldxImm _ => 0xA2
  | .ldaSr _ => 0xA3
  | .ldyDp _ => 0xA4
  | .ldaDp _ => 0xA5
  | .ldxDp _ => 0xA6
  | .ldaDpIndLong _ => 0xA7
  | .tay => 0xA8
  | .ldaImm _ => 0xA9
  | .tax => 0xAA
  | .plb => 0xAB
  | .ldyAbs _ => 0xAC
  | .ldaAbs _ => 0xAD
  | .ldxAbs _ => 0xAE
  | .ldaLong _ => 0xAF
  | .bcs _ => 0xB0
  | .ldaDpIndY _ => 0xB1
  | .ldaDpInd _ => 0xB2
  | .ldaSrIndY _ => 0xB3
  | .ldyDpX _ => 0xB4
  | .ldaDpX _ => 0xB5
  | .ldxDpY _ => 0xB6
  | .ldaDpIndLongY _ => 0xB7
  | .clv => 0xB8
  | .ldaAbsY _ => 0xB9
  | .tsx => 0xBA
  | .tyx => 0xBB
  | .ldyAbsX _ => 0xBC
  | .ldaAbsX _ => 0xBD
  | .ldxAbsY _ => 0xBE
  | .ldaLongX _ => 0xBF
  | .cpyImm _ => 0xC0
  | .cmpDpIndX _ => 0xC1
  | .rep _ => 0xC2
  | .cmpSr _ => 0xC3
  | .cpyDp _ => 0xC4
  | .cmpDp _ => 0xC5
  | .decDp _ => 0xC6
  | .cmpDpIndLong _ => 0xC7
  | .iny => 0xC8
  | .cmpImm _ => 0xC9
  | .dex => 0xCA
  | .wai => 0xCB
  | .cpyAbs _ => 0xCC
  | .cmpAbs _ => 0xCD
  | .decAbs _ => 0xCE
  | .cmpLong _ => 0xCF
  | .bne _ => 0xD0
  | .cmpDpIndY _ => 0xD1
  | .cmpDpInd _ => 0xD2
  | .cmpSrIndY _ => 0xD3
  | .pei _ => 0xD4
  | .cmpDpX _ => 0xD5
  | .decDpX _ => 0xD6
  | .cmpDpIndLongY _ => 0xD7
  | .cld => 0xD8
  | .cmpAbsY _ => 0xD9
  | .phx => 0xDA
  | .stp => 0xDB
  | .jmlAbsIndLong _ => 0xDC
  | .cmpAbsX _ => 0xDD
  | .decAbsX _ => 0xDE
  | .cmpLongX _ => 0xDF
  | .cpxImm _ => 0xE0
  | .sbcDpIndX _ => 0xE1
  | .sep _ => 0xE2
  | .sbcSr _ => 0xE3
  | .cpxDp _ => 0xE4
  | .sbcDp _ => 0xE5
  | .incDp _ => 0xE6
  | .sbcDpIndLong _ => 0xE7
  | .inx => 0xE8
  | .sbcImm _ => 0xE9
  | .nop => 0xEA
  | .xba => 0xEB
  | .cpxAbs _ => 0xEC
  | .sbcAbs _ => 0xED
  | .incAbs _ => 0xEE
  | .sbcLong _ => 0xEF
  | .beq _ => 0xF0
  | .sbcDpIndY _ => 0xF1
  | .sbcDpInd _ => 0xF2
  | .sbcSrIndY _ => 0xF3
  | .pea _ => 0xF4
  | .sbcDpX _ => 0xF5
  | .incDpX _ => 0xF6
  | .sbcDpIndLongY _ => 0xF7
  | .sed => 0xF8
  | .sbcAbsY _ => 0xF9
  | .plx => 0xFA
  | .xce => 0xFB
  | .jsrAbsIndX _ => 0xFC
  | .sbcAbsX _ => 0xFD
  | .incAbsX _ => 0xFE
  | .sbcLongX _ => 0xFF

/-- The length of the instruction an opcode starts, under the current flags (R103). -/
def opcodeLength (m x : Bool) (op : Byte) : Nat := (decodeRaw op ⟨m, x, 0, 0, 0⟩).payload.length m x

/-- Why a byte sequence is not an instruction: there is no byte, or the operand bytes its opcode calls for are missing. No
opcode is rejected (R116). -/
inductive DecodeError where
  | noByte
  | truncated (op : Byte)
deriving DecidableEq, Repr

/-- Decoding: the first instruction of a byte sequence under `P.m = m`, `P.x = x`, and the bytes after it (R100, R103, R115). -/
def decode (m x : Bool) : List Byte → Except DecodeError (Instr × List Byte)
  | [] => .error .noByte
  | op :: rest =>
    if rest.length + 1 < opcodeLength m x op then .error (.truncated op)
    else .ok (decodeRaw op ⟨m, x, rest.getD 0 0, rest.getD 1 0, rest.getD 2 0⟩, rest.drop (opcodeLength m x op - 1))

/-- Encoding: the bytes of an instruction under `P.m = m`, `P.x = x` (R100, R102). -/
def encode (m x : Bool) (i : Instr) : List Byte := i.opcode :: i.payload.bytes m x

/-- The four bytes an instruction of at most four is fetched from, the bits of `w` above `nbits` taken as 0; byte 0 is the
opcode (R100). -/
def wordBytes (nbits w : Nat) : List Byte :=
  let v := w % 2 ^ nbits
  [BitVec.ofNat 8 v, BitVec.ofNat 8 (v / 2 ^ 8), BitVec.ofNat 8 (v / 2 ^ 16), BitVec.ofNat 8 (v / 2 ^ 24)]

/-- The instruction the decoder reads from the bits `w`, under the flags of the reset state, `P.m = P.x = 1` (R45). -/
def decodeTableWord (nbits w : Nat) : Option Instr :=
  match decode true true (wordBytes nbits w) with
  | .ok (i, _) => some i
  | .error _ => none

end Sys2Proof
end

