-- ==== Sys2Proof/Config.lean ====
section
/-! DEFINITION. What the spec leaves to the implementation or to the world (R7): the parameters of the model, and its free
values. A constant here has no body, so a proof holds whatever it is. -/

namespace Sys2Proof

/-- One access the core or the DMA engine made outside RAM and ROM (R75: a write is a recorded event; a read can change the
device, so it is recorded too). -/
inductive BusEvent where
  | read (a : Addr)
  | write (a : Addr) (v : Byte)
deriving DecidableEq, Repr

/-- A run of banks in which a cartridge shows ROM at offsets `first` to `last` (R78, for mappings other than the two named). -/
structure RomWindow where
  bankFirst : Nat
  bankLast : Nat
  offFirst : Nat
  offLast : Nat
deriving DecidableEq, Repr

/-- The parameter `RomMap` of R7: LoROM, HiROM or other (R78). It is held in the state and no step changes it. -/
inductive RomMap where
  | loRom
  | hiRom
  | other (windows : List RomWindow)
deriving DecidableEq, Repr

/-- The two clock rates of R6. -/
inductive ClockRate where
  | slow268
  | fast358
deriving DecidableEq, Repr, Inhabited

/-- `DECIMAL_ENABLED` of R7, OPEN (D2): whether ADC and SBC honour `P.d`. -/
opaque Config.decimalEnabled : Bool

/-- The answer of `Bus.read` (R7, D9): a draw that may depend on the whole history of bus events, newest first, and the address. -/
opaque Config.busRead : List BusEvent → Addr → Byte

/-- `P.v` after a decimal ADC or SBC: any value (D20). -/
opaque Config.decimalV : Nat → Bool

/-- The result of a decimal ADC or SBC on a digit above 9: any value (D20). -/
opaque Config.decimalResult : Nat → Word

/-- The carry of a decimal ADC or SBC on a digit above 9: any value (D20). -/
opaque Config.decimalCarry : Nat → Bool

/-- `ResetDraw` of R7 (D11), for a reset during a run: the accumulator `C`. -/
opaque Config.resetC : Nat → Word

/-- `ResetDraw`: `XL`. -/
opaque Config.resetXl : Nat → Byte

/-- `ResetDraw`: `YL`. -/
opaque Config.resetYl : Nat → Byte

/-- `ResetDraw`: `SL`. -/
opaque Config.resetSl : Nat → Byte

/-- `ResetDraw`: the byte that `P.n`, `P.v`, `P.z` and `P.c` are taken from. -/
opaque Config.resetFlags : Nat → Byte

/-- `ClockRate` of R7: no rule depends on it (D21), and nothing in the model reads it. -/
opaque Config.clockRate : ClockRate

end Sys2Proof
end

