-- ==== Sys2Proof/Machine/State.lean ====
section
/-! DEFINITION. The state of the machine as plain data, the reasons a step can stop, the outcome type and the reset state. -/

namespace Sys2Proof.Machine

/-- Memory: (address, byte) pairs, addresses strictly rising, none equal to what an unlisted address reads as (`Memory.wf`). -/
abbrev Memory := List Host.Cell

/-- What the environment does before one step (R375, R376, R448, D13: one sample per instruction boundary). -/
structure Input where
  /-- An NMI edge arrived since the last boundary (`NmiEdge`, R375). -/
  nmiEdge : Bool
  /-- The level of the IRQ input at this boundary (`IrqLine`, R376). -/
  irqLine : Bool
  /-- The reset input is asserted at this boundary (R381, R448). -/
  reset : Bool
deriving DecidableEq, Repr

/-- Everything behind the address bus: RAM and ROM, the platform registers, and the history of bus accesses. -/
structure System where
  /-- RAM by its `$7E:0000-$7F:FFFF` address (R77) and ROM by its CPU address (R78). -/
  mem : Memory
  /-- The byte last written to each platform register, by its offset in the system banks (R43, R74). -/
  io : Memory
  /-- Quotient of the divider, read at `$4214-$4215` (R393). -/
  rddiv : Word
  /-- Product of the multiplier or remainder of the divider, read at `$4216-$4217` (R393). -/
  rdmpy : Word
  /-- Instructions still to start before `rddiv` is valid (R44, R436). -/
  rddivWait : Nat
  /-- Instructions still to start before `rdmpy` is valid (R44, R436). -/
  rdmpyWait : Nat
  /-- Every access outside RAM and ROM so far, newest first (R75; the `History` of R7). -/
  busLog : List BusEvent
  /-- The cartridge mapping (R7, R78): no step changes it. -/
  romMap : RomMap
deriving DecidableEq, Repr

/-- The whole machine: the tuple `(C, X, Y, S, D, PC, DBR, PBR, P, E)`, the hidden state of R44, and memory. -/
structure State where
  /-- Accumulator `C = B ++ A` (R20). -/
  c : Word
  /-- Index register `X` (R21). -/
  x : Word
  /-- Index register `Y` (R21). -/
  y : Word
  /-- Stack pointer `S` (R23). -/
  sp : Word
  /-- Direct page register (R48). -/
  d : Word
  /-- Program counter: between instructions the address of the next opcode byte in bank `pbr` (R26). -/
  pc : Word
  /-- Data bank register (R46). -/
  dbr : Byte
  /-- Program bank register (R47). -/
  pbr : Byte
  /-- Processor status `P`, bits n v m x d i z c from 7 to 0 (R28). -/
  p : Byte
  /-- Emulation flag: true is emulation mode (R38). -/
  e : Bool
  /-- Set by STP; only reset ends it (R44, R372). -/
  stopped : Bool
  /-- Set by WAI; the core waits for an interrupt request (R44, R378). -/
  waiting : Bool
  /-- An NMI edge was seen and not yet taken (R44, R375). -/
  nmiPending : Bool
  /-- Current level of the IRQ request (R44, R376). -/
  irqLine : Bool
  /-- The environment samples of the boundaries to come, next first: the model's own field for `NmiEdge`, `IrqLine` and reset (R7,
  D13; log 17). -/
  inputs : List Input
  /-- Index of the next free value: the model's own field (log 26). -/
  free : Nat
  /-- Memory and platform (R60). -/
  sys : System
deriving DecidableEq, Repr

/-- Why a step faults: never. No instruction can fail and the hardware has no synchronous fault (R370), so there is no reason. -/
inductive Fault where
deriving DecidableEq, Repr

/-- Why a step is refused. -/
inductive Refusal where
  /-- Raised only by an arm of `exec` whose instruction has no meaning yet; no arm raises it now. Safe. -/
  | notModelled (mnemonic : String)
deriving DecidableEq, Repr

/-- What executing an instruction, or a step, answers. -/
abbrev Result := Host.Outcome State Fault Refusal

/-- The state with `c` replaced. -/
def State.setC (v : Word) (s : State) : State := { s with c := v }

/-- The state with `x` replaced. -/
def State.setX (v : Word) (s : State) : State := { s with x := v }

/-- The state with `y` replaced. -/
def State.setY (v : Word) (s : State) : State := { s with y := v }

/-- The state with `sp` replaced. -/
def State.setSp (v : Word) (s : State) : State := { s with sp := v }

/-- The state with `d` replaced. -/
def State.setD (v : Word) (s : State) : State := { s with d := v }

/-- The state with `pc` replaced. -/
def State.setPc (v : Word) (s : State) : State := { s with pc := v }

/-- The state with `dbr` replaced. -/
def State.setDbr (v : Byte) (s : State) : State := { s with dbr := v }

/-- The state with `pbr` replaced. -/
def State.setPbr (v : Byte) (s : State) : State := { s with pbr := v }

/-- The state with `p` replaced. -/
def State.setP (v : Byte) (s : State) : State := { s with p := v }

/-- The state with `e` replaced. -/
def State.setE (v : Bool) (s : State) : State := { s with e := v }

/-- The state with `stopped` replaced. -/
def State.setStopped (v : Bool) (s : State) : State := { s with stopped := v }

/-- The state with `waiting` replaced. -/
def State.setWaiting (v : Bool) (s : State) : State := { s with waiting := v }

/-- The state with `nmiPending` replaced. -/
def State.setNmiPending (v : Bool) (s : State) : State := { s with nmiPending := v }

/-- The state with `irqLine` replaced. -/
def State.setIrqLine (v : Bool) (s : State) : State := { s with irqLine := v }

/-- The state with `inputs` replaced. -/
def State.setInputs (v : List Input) (s : State) : State := { s with inputs := v }

/-- The state with `free` replaced. -/
def State.setFree (v : Nat) (s : State) : State := { s with free := v }

/-- The state with `sys` replaced. -/
def State.setSys (v : System) (s : State) : State := { s with sys := v }

/-- The memory system after power-on: no RAM byte written, no ROM loaded, no register written, no bus access (R45, R421). -/
def System.reset : System where
  mem := []
  io := []
  rddiv := 0
  rdmpy := 0
  rddivWait := 0
  rdmpyWait := 0
  busLog := []
  romMap := .loRom

/-- The machine right after reset (R45, R420). `pc` is the word at `$00:FFFC` of a memory with nothing listed (log 4); `c`, the low
bytes of `x`, `y`, `sp` and the flags n, v, z, c have no value in the spec (log 1, log 2). -/
def State.reset : State where
  c := 0
  x := 0
  y := 0
  sp := 0x01FF
  d := 0
  pc := 0
  dbr := 0
  pbr := 0
  p := 0x34
  e := true
  stopped := false
  waiting := false
  nmiPending := false
  irqLine := false
  inputs := []
  free := 0
  sys := System.reset

end Sys2Proof.Machine
end

