-- ==== Sys2Proof/Machine/Flags.lean ====
section
/-! DEFINITION. The flags of `P`, the widths they select, and every flag and result computation of the spec that is a function of
operands: `SetNZ`, binary and decimal addition and subtraction, compares, bit tests, shifts and rotates. -/

namespace Sys2Proof.Machine

/-- The eight flags of `P` (R28). -/
inductive Flag where
  | c
  | z
  | i
  | d
  | x
  | m
  | v
  | n
deriving DecidableEq, Repr

/-- The bit of `P` a flag is (R28). -/
def Flag.index : Flag → Nat
  | .c => 0
  | .z => 1
  | .i => 2
  | .d => 3
  | .x => 4
  | .m => 5
  | .v => 6
  | .n => 7

/-- The byte `p` with bit `k` made `b` and its other bits kept (R11). -/
def setBit (p : Byte) (k : Nat) (b : Bool) : Byte :=
  if b then p ||| BitVec.twoPow 8 k else p &&& ~~~(BitVec.twoPow 8 k)

/-- A flag of the state (R28 to R36). -/
def State.flag (f : Flag) (s : State) : Bool := s.p.getLsbD f.index

/-- The state with one flag replaced. -/
def State.setFlag (f : Flag) (b : Bool) (s : State) : State := s.setP (setBit s.p f.index b)

/-- The state with one flag replaced when `cond` holds and as it is otherwise. -/
def State.setFlagIf (cond : Bool) (f : Flag) (b : Bool) (s : State) : State := if cond then s.setFlag f b else s

/-- A width in bits (R12). -/
def widthBits : Width → Nat
  | .w8 => 8
  | .w16 => 16

/-- A width in bytes (R12). -/
def widthBytes : Width → Nat
  | .w8 => 1
  | .w16 => 2

/-- The low `w` bits of a value, zero-extended: what an operand of width `w` holds. -/
def trunc (w : Width) (v : Word) : Word :=
  match w with
  | .w8 => zext16 (lo8 v)
  | .w16 => v

/-- The top bit of a value of width `w`: `v[w-1]`. -/
def msb (w : Width) (v : Word) : Bool := v.getLsbD (widthBits w - 1)

/-- The bit below the top one: `v[w-2]`. -/
def msb2 (w : Width) (v : Word) : Bool := v.getLsbD (widthBits w - 2)

/-- The width a select flag gives: 8 bits when it is 1, 16 when it is 0 (R12, R31, R32). -/
def widthOf (flag : Bool) : Width := if flag then .w8 else .w16

/-- `wA` (R12). -/
def State.wA (s : State) : Width := widthOf (s.flag .m)

/-- `wX` (R12). -/
def State.wX (s : State) : Width := widthOf (s.flag .x)

/-- `SetNZ(v, w)` (R14). -/
def State.setNZ (w : Width) (v : Word) (s : State) : State := (s.setFlag .n (msb w v)).setFlag .z (trunc w v == 0)

/-- What an addition or subtraction gives: the result at the operand's width, the carry out, and the overflow. -/
structure Sum where
  result : Word
  carry : Bool
  overflow : Bool
deriving DecidableEq, Repr

/-- Binary addition with carry (R230): exact sum, carry out of the top bit, result modulo `2^w`, signed overflow. -/
def addBinary (w : Width) (a m : Word) (cin : Bool) : Sum :=
  let r := a.toNat + m.toNat + cin.toNat
  let res := BitVec.ofNat 16 (r % 2 ^ widthBits w)
  { result := res, carry := decide (2 ^ widthBits w ≤ r), overflow := msb w a == msb w m && msb w a != msb w res }

/-- The ones' complement of an operand at width `w`: `(2^w - 1) - m` (R231). -/
def complement (w : Width) (m : Word) : Word := BitVec.ofNat 16 (2 ^ widthBits w - 1 - m.toNat)

/-- Binary subtraction with borrow: addition of the complement (R231). -/
def subBinary (w : Width) (a m : Word) (cin : Bool) : Sum := addBinary w a (complement w m) cin

/-- The digit loop of R232 over `k` digits, least significant first: the digits of the result and the carry out. -/
def addDigits : Nat → Nat → Nat → Bool → Nat × Bool
  | 0, _, _, cin => (0, cin)
  | k + 1, a, m, cin =>
    let t := a % 16 + m % 16 + cin.toNat
    let u := if 9 < t then t + 6 else t
    let rest := addDigits k (a / 16) (m / 16) (decide (15 < u))
    (rest.1 * 16 + u % 16, rest.2)

/-- The digit loop of R233 over `k` digits, `mc` being the complemented operand. A digit sum of at most 15 loses 6 modulo 16, which
is adding 10, and leaves carry 0. -/
def subDigits : Nat → Nat → Nat → Bool → Nat × Bool
  | 0, _, _, cin => (0, cin)
  | k + 1, a, mc, cin =>
    let t := a % 16 + mc % 16 + cin.toNat
    let digit := if t ≤ 15 then (t + 10) % 16 else t % 16
    let rest := subDigits k (a / 16) (mc / 16) (decide (15 < t))
    (rest.1 * 16 + digit, rest.2)

/-- Every one of the `k` low digits is at most 9 (R232, D20). -/
def bcdValid : Nat → Nat → Bool
  | 0, _ => true
  | k + 1, v => decide (v % 16 ≤ 9) && bcdValid k (v / 16)

/-- A decimal result: the digits of R232 or R233 when both operands are packed BCD; free values of draw `k` for `P.v` always and for
result and carry on a digit above 9 (D20, log 13). -/
def decimalSum (w : Width) (k : Nat) (valid : Bool) (digits : Nat × Bool) : Sum :=
  if valid then { result := BitVec.ofNat 16 digits.1, carry := digits.2, overflow := Config.decimalV k }
  else { result := trunc w (Config.decimalResult k), carry := Config.decimalCarry k, overflow := Config.decimalV k }

/-- Decimal addition (R232). -/
def addDecimal (w : Width) (k : Nat) (a m : Word) (cin : Bool) : Sum :=
  decimalSum w k (bcdValid (widthBits w / 4) a.toNat && bcdValid (widthBits w / 4) m.toNat)
    (addDigits (widthBits w / 4) a.toNat m.toNat cin)

/-- Decimal subtraction (R233). -/
def subDecimal (w : Width) (k : Nat) (a m : Word) (cin : Bool) : Sum :=
  decimalSum w k (bcdValid (widthBits w / 4) a.toNat && bcdValid (widthBits w / 4) m.toNat)
    (subDigits (widthBits w / 4) a.toNat (complement w m).toNat cin)

/-- ADC and SBC use the decimal rules: `P.d = 1` and `DECIMAL_ENABLED` (R230, R33; log 12). -/
def State.decimalMode (s : State) : Bool := s.flag .d && Config.decimalEnabled

/-- `(R - m) mod 2^w`, the difference a compare looks at (file 47, common operation). -/
def difference (w : Width) (r m : Word) : Word := BitVec.ofNat 16 ((r.toNat + 2 ^ widthBits w - m.toNat) % 2 ^ widthBits w)

/-- Increment modulo `2^w` (R234 to R236). -/
def incValue (w : Width) (v : Word) : Word := trunc w (v + 1)

/-- Decrement modulo `2^w` (R237 to R239). -/
def decValue (w : Width) (v : Word) : Word := trunc w (v - 1)

/-- What a shift or rotate gives: the new value and the bit that goes to `P.c`. -/
structure Shifted where
  value : Word
  carry : Bool
deriving DecidableEq, Repr

/-- ASL (R256). -/
def aslValue (w : Width) (_cin : Bool) (v : Word) : Shifted := { value := trunc w (v <<< 1), carry := msb w v }

/-- LSR (R257). -/
def lsrValue (w : Width) (_cin : Bool) (v : Word) : Shifted := { value := trunc w v >>> 1, carry := v.getLsbD 0 }

/-- ROL (R258): bit 0 becomes the old carry. -/
def rolValue (w : Width) (cin : Bool) (v : Word) : Shifted :=
  { value := trunc w (v <<< 1) ||| (if cin then 1 else 0), carry := msb w v }

/-- ROR (R259): bit `w-1` becomes the old carry. -/
def rorValue (w : Width) (cin : Bool) (v : Word) : Shifted :=
  { value := (trunc w v >>> 1) ||| (if cin then BitVec.twoPow 16 (widthBits w - 1) else 0), carry := v.getLsbD 0 }

end Sys2Proof.Machine
end

