-- ==== Sys2Proof/Machine/Memory.lean ====
section
/-! DEFINITION. What stands behind the address bus: lists of bytes in canonical form, the address map (R74 to R78), one-byte reads
and writes (R62, R75, R76), the multiplier and divider (R393, R436), and the general DMA engine (R394, R396 to R399). -/

namespace Sys2Proof.Machine

/-- What a byte of RAM or ROM that is not listed reads as (DESIGN CHOICE, unsafe: R45 and R421 give RAM no value; log 3). -/
def Memory.unlisted (_k : Nat) : Byte := 0

/-- What a platform register that nothing has written is taken to hold: `$FF` in `$43x0-$43xA` (R396), else 0 (log 8). -/
def ioUnlisted (k : Nat) : Byte := if 0x4300 ≤ k ∧ k < 0x4380 ∧ k % 16 ≤ 10 then 0xFF else 0

/-- The byte at key `k`, `u` giving the unlisted ones. -/
def Memory.get (u : Nat → Byte) : Memory → Nat → Byte
  | [], k => u k
  | c :: rest, k => if c.1 = k then c.2 else Memory.get u rest k

/-- The list with `(k, v)` put in its place, whatever `v` is. -/
def Memory.put (k : Nat) (v : Byte) : Memory → Memory
  | [] => [(k, v)]
  | c :: rest => if k < c.1 then (k, v) :: c :: rest else if k = c.1 then (k, v) :: rest else c :: Memory.put k v rest

/-- Write `v` at `k`, keeping the canonical form: writing what an unlisted key reads as removes the entry. -/
def Memory.set (u : Nat → Byte) (k : Nat) (v : Byte) (m : Memory) : Memory :=
  if v = u k then m.filter (fun c => decide (c.1 ≠ k)) else Memory.put k v m

/-- The canonical form: keys strictly rising and 24-bit, no entry equal to what its key reads as unlisted. -/
abbrev Memory.wf (u : Nat → Byte) (m : Memory) : Prop :=
  m.Pairwise (fun a b => a.1 < b.1) ∧ ∀ c ∈ m, c.2 ≠ u c.1 ∧ c.1 < 2 ^ 24

/-- Where an address leads (R74): a byte of RAM or ROM by its key in `System.mem`, a platform register by its offset in the system
banks, or nothing. -/
inductive Region where
  | ram (key : Nat)
  | rom (key : Nat)
  | io (reg : Nat)
  | unmapped
deriving DecidableEq, Repr

/-- Banks `$00-$3F` and `$80-$BF`, the system area (R74). -/
def isSystemBank (bank : Nat) : Bool := bank < 0x40 || (0x80 ≤ bank && bank < 0xC0)

/-- The offsets of a system bank that R74 hands to `Bus`: PPU, APU, WRAM access, controller, CPU, DMA, enhancement chip registers. -/
def isIoOffset (off : Nat) : Bool :=
  (0x2100 ≤ off && off < 0x2184) || (0x4000 ≤ off && off < 0x4220) || (0x4300 ≤ off && off < 0x4380) ||
    (0x6000 ≤ off && off < 0x8000)

/-- A run of banks and offsets holds the address. -/
def windowHolds (w : RomWindow) (bank off : Nat) : Bool :=
  w.bankFirst ≤ bank && bank ≤ w.bankLast && w.offFirst ≤ off && off ≤ w.offLast

/-- The cartridge shows ROM at this address outside the system banks (R78; log 5). -/
def romMaps (map : RomMap) (bank off : Nat) : Bool :=
  match map with
  | .loRom => bank < 0x7E && 0x8000 ≤ off
  | .hiRom => 0xC0 ≤ bank
  | .other windows => windows.any (fun w => windowHolds w bank off)

/-- The address map (R74, R76 to R78). -/
def route (map : RomMap) (a : Addr) : Region :=
  let bank := a.bank.toNat
  let off := a.off.toNat
  if bank = 0x7E ∨ bank = 0x7F then .ram a.toNat
  else if isSystemBank bank then
    if off < 0x2000 then .ram (0x7E0000 + off)
    else if 0x8000 ≤ off then .rom a.toNat
    else if isIoOffset off then .io off
    else .unmapped
  else if romMaps map bank off then .rom a.toNat
  else .unmapped

/-- The key in `System.mem` of the byte at an address, if that address is RAM or ROM (R77, R78). -/
def System.cell (y : System) (a : Addr) : Option Nat :=
  match route y.romMap a with
  | .ram k => some k
  | .rom k => some k
  | .io _ => none
  | .unmapped => none

/-- The byte of RAM or ROM at an address, if there is one: what looking at memory shows, without any access. -/
def System.peek (y : System) (a : Addr) : Option Byte := (y.cell a).map (y.mem.get Memory.unlisted)

/-- The byte latched in a platform register. -/
def System.ioGet (y : System) (reg : Nat) : Byte := y.io.get ioUnlisted reg

/-- What a read of a platform register returns: quotient, product and remainder when ready (R393, R436), the clear DMA start bits
(R394), and otherwise the bus's free answer (R75, R401; log 6). -/
def System.ioRead (y : System) (reg : Nat) (a : Addr) : Byte :=
  if reg = 0x4214 ∧ y.rddivWait = 0 then lo8 y.rddiv
  else if reg = 0x4215 ∧ y.rddivWait = 0 then hi8 y.rddiv
  else if reg = 0x4216 ∧ y.rdmpyWait = 0 then lo8 y.rdmpy
  else if reg = 0x4217 ∧ y.rdmpyWait = 0 then hi8 y.rdmpy
  else if reg = 0x420B then y.ioGet reg
  else Config.busRead y.busLog a

/-- The byte `Read8(a)` returns (R62, R74 to R78). -/
def System.readByte (a : Addr) (y : System) : Byte :=
  match route y.romMap a with
  | .ram k => y.mem.get Memory.unlisted k
  | .rom k => y.mem.get Memory.unlisted k
  | .io reg => y.ioRead reg a
  | .unmapped => Config.busRead y.busLog a

/-- What `Read8(a)` does beside returning a byte: an access outside RAM and ROM is an event (R75). -/
def System.afterRead (a : Addr) (y : System) : System :=
  match route y.romMap a with
  | .ram _ => y
  | .rom _ => y
  | .io _ => { y with busLog := .read a :: y.busLog }
  | .unmapped => { y with busLog := .read a :: y.busLog }

/-- The instructions that must start after a write to `$4203` before the product can be read: four NOPs between (R436, D25). -/
def multiplyDelay : Nat := 5

/-- The same for a division, which takes twice as long (R393, R436). -/
def divideDelay : Nat := 9

/-- `$4202 * $4203`, unsigned 8 by 8 bits (R393). -/
def product (a b : Byte) : Word := zext16 a * zext16 b

/-- The quotient; division by zero gives `$FFFF` (R393). -/
def quotient (n : Word) (d : Byte) : Word := if d = 0 then 0xFFFF else n / zext16 d

/-- The remainder; division by zero gives the dividend (R393). -/
def remainder (n : Word) (d : Byte) : Word := if d = 0 then n else n % zext16 d

/-- The multiplier and divider see a register write (R393): `$4203` starts a multiplication, `$4206` a division. -/
def mathWrite (reg : Nat) (v : Byte) (y : System) : System :=
  if reg = 0x4203 then { y with rdmpy := product (y.ioGet 0x4202) v, rdmpyWait := multiplyDelay }
  else if reg = 0x4206 then
    let n := join16 (y.ioGet 0x4205) (y.ioGet 0x4204)
    { y with rddiv := quotient n v, rdmpy := remainder n v, rddivWait := divideDelay, rdmpyWait := divideDelay }
  else y

/-- One instruction starts: a pending product, quotient or remainder is one instruction nearer (R436; log 9). -/
def System.tickMath (y : System) : System := { y with rddivWait := y.rddivWait - 1, rdmpyWait := y.rdmpyWait - 1 }

/-- The store of one byte without the DMA engine (R62, R75 to R78): RAM takes it, ROM ignores it, a platform register latches and
records it, and an unmapped address only records it. -/
def System.store8 (a : Addr) (v : Byte) (y : System) : System :=
  match route y.romMap a with
  | .ram k => { y with mem := y.mem.set Memory.unlisted k v }
  | .rom _ => y
  | .io reg => mathWrite reg v { y with io := y.io.set ioUnlisted reg v, busLog := .write a v :: y.busLog }
  | .unmapped => { y with busLog := .write a v :: y.busLog }

/-- The registers of one DMA channel as they stand when the transfer starts (R396, R397). -/
structure DmaChannel where
  mode : Nat
  fixed : Bool
  decrement : Bool
  toCpu : Bool
  target : Byte
  source : Word
  bank : Byte
  count : Nat
deriving DecidableEq, Repr

/-- The latched registers of channel `n` (R396, R397); a count of 0 means 65536 (R399). -/
def System.dmaChannel (n : Nat) (y : System) : DmaChannel :=
  let base := 0x4300 + 16 * n
  let ctrl := y.ioGet base
  let size := (join16 (y.ioGet (base + 6)) (y.ioGet (base + 5))).toNat
  { mode := ctrl.toNat % 8
    fixed := ctrl.getLsbD 3
    decrement := ctrl.getLsbD 4
    toCpu := ctrl.getLsbD 7
    target := y.ioGet (base + 1)
    source := join16 (y.ioGet (base + 3)) (y.ioGet (base + 2))
    bank := y.ioGet (base + 4)
    count := if size = 0 then 65536 else size }

/-- Which of the registers from `p` on the `i`-th byte of a transfer goes to (R398, hardware column). -/
def dmaPattern (mode i : Nat) : Nat :=
  if mode = 1 ∨ mode = 5 then i % 2
  else if mode = 3 ∨ mode = 7 then i / 2 % 2
  else if mode = 4 then i % 4
  else 0

/-- The source address after `i` bytes: fixed, rising or falling, inside its bank (R397; log 10). -/
def DmaChannel.sourceAt (ch : DmaChannel) (i : Nat) : Word :=
  if ch.fixed then ch.source else if ch.decrement then ch.source - BitVec.ofNat 16 i else ch.source + BitVec.ofNat 16 i

/-- The CPU-side address of byte `i`. -/
def DmaChannel.cpuSide (ch : DmaChannel) (i : Nat) : Addr := addr24 ch.bank (ch.sourceAt i)

/-- The `$21xx` address of byte `i` (R396, R398). R398 writes `p+1` to `p+3` and does not say where they are when `$43x1` is near `$FF`: that they
wrap inside `$21xx`, `$2100` following `$21FF`, is the model's choice (PRESUMED, log 30). -/
def DmaChannel.portSide (ch : DmaChannel) (i : Nat) : Addr :=
  addr24 0 (join16 0x21 (ch.target + BitVec.ofNat 8 (dmaPattern ch.mode i)))

/-- One byte of a transfer, from one side to the other (R397 bit 7, R399). -/
def DmaChannel.moveByte (ch : DmaChannel) (i : Nat) (y : System) : System :=
  let src := if ch.toCpu then ch.portSide i else ch.cpuSide i
  let dst := if ch.toCpu then ch.cpuSide i else ch.portSide i
  (y.afterRead src).store8 dst (y.readByte src)

/-- The first `k` bytes of a transfer, in order (R399). -/
def DmaChannel.moveBytes (ch : DmaChannel) : Nat → System → System
  | 0, y => y
  | k + 1, y => ch.moveByte k (ch.moveBytes k y)

/-- A platform register replaced by the machine itself, without an event. -/
def System.ioSet (reg : Nat) (v : Byte) (y : System) : System := { y with io := y.io.set ioUnlisted reg v }

/-- A whole transfer on channel `n`: the count ends at 0 and the source address past the last byte (R399). -/
def System.runChannel (n : Nat) (y : System) : System :=
  let ch := y.dmaChannel n
  let base := 0x4300 + 16 * n
  let last := ch.sourceAt ch.count
  ((((ch.moveBytes ch.count y).ioSet (base + 2) (lo8 last)).ioSet (base + 3) (hi8 last)).ioSet (base + 5) 0).ioSet (base + 6) 0

/-- The channels below `k` whose bit of `start` is set, one after the other, the lowest first (R394; the order is PRESUMED, log 10). -/
def System.runChannels (start : Byte) : Nat → System → System
  | 0, y => y
  | k + 1, y => if start.getLsbD k then (System.runChannels start k y).runChannel k else System.runChannels start k y

/-- A write to `$420B`: every channel whose bit is set transfers to its end, then the bits read as clear (R394, D19). -/
def System.runDma (start : Byte) (y : System) : System := (y.runChannels start 8).ioSet 0x420B 0

/-- `Write8(a, v)` by the CPU (R62): the store, and a DMA when it went to `$420B` (R83, R394, R399, D19). -/
def System.write8 (a : Addr) (v : Byte) (y : System) : System :=
  if route y.romMap a = .io 0x420B then (y.store8 a v).runDma v else y.store8 a v

/-- A byte placed in RAM or ROM from outside the machine (R448: the harness prepares `Rom` and the initial memory). -/
def System.poke (a : Addr) (v : Byte) (y : System) : System :=
  match y.cell a with
  | some k => { y with mem := y.mem.set Memory.unlisted k v }
  | none => y

end Sys2Proof.Machine
end

