-- ==== Sys2Proof/Machine/Ops.lean ====
section
/-! DEFINITION. The named operations every meaning is written over: byte and multi-byte access (R62 to R71), push and pull (R69,
R70), `Normalize` (R41), taking an exception and returning from one (R380, R382, R306), reset (R420), what happens at an
instruction boundary (R372, R375 to R378, R381) and the fetch (R26, R27, R67, R84). -/

namespace Sys2Proof.Machine

/-! ### Memory access -/

/-- The byte `Read8(a)` returns (R62). -/
def State.readByte (a : Addr) (s : State) : Byte := s.sys.readByte a

/-- The state after `Read8(a)` (R62, R75). -/
def State.afterRead (a : Addr) (s : State) : State := s.setSys (s.sys.afterRead a)

/-- `Read8(a)` (R62). -/
def State.read8 (a : Addr) (s : State) : Byte × State := (s.readByte a, s.afterRead a)

/-- `Write8(a, v)` (R62). -/
def State.write8 (a : Addr) (v : Byte) (s : State) : State := s.setSys (s.sys.write8 a v)

/-- Where a datum or pointer starts, with the rule its next bytes follow: linear (R65), bank 0 (R66), page (R68), one program bank
(R67). -/
inductive Loc where
  | linear (a : Addr)
  | bank0 (o : Word)
  | page (o : Word)
  | prog (bank : Byte) (o : Word)
deriving DecidableEq, Repr

/-- The address of byte `k` of a datum (R65 to R68). -/
def Loc.addr (l : Loc) (k : Nat) : Addr :=
  match l with
  | .linear a => a + BitVec.ofNat 24 k
  | .bank0 o => addr24 0 (o + BitVec.ofNat 16 k)
  | .page o => addr24 0 (join16 (hi8 o) (lo8 o + BitVec.ofNat 8 k))
  | .prog bank o => addr24 bank (o + BitVec.ofNat 16 k)

/-- A 16-bit read, low byte first (R63, R71). -/
def State.read16 (l : Loc) (s : State) : Word × State :=
  let lo := s.read8 (l.addr 0)
  let hi := lo.2.read8 (l.addr 1)
  (join16 hi.1 lo.1, hi.2)

/-- A 24-bit read, low byte, high byte, bank (R63, R71). -/
def State.read24 (l : Loc) (s : State) : Addr × State :=
  let lo := s.read8 (l.addr 0)
  let hi := lo.2.read8 (l.addr 1)
  let bank := hi.2.read8 (l.addr 2)
  (addr24 bank.1 (join16 hi.1 lo.1), bank.2)

/-- A read of an operand of width `w` (R12, R73). -/
def State.readW (w : Width) (l : Loc) (s : State) : Word × State :=
  match w with
  | .w8 => let b := s.read8 (l.addr 0); (zext16 b.1, b.2)
  | .w16 => s.read16 l

/-- A write of an operand of width `w`, low byte first: store instructions (R71, R73). -/
def State.writeW (w : Width) (l : Loc) (v : Word) (s : State) : State :=
  match w with
  | .w8 => s.write8 (l.addr 0) (lo8 v)
  | .w16 => (s.write8 (l.addr 0) (lo8 v)).write8 (l.addr 1) (hi8 v)

/-- A write of an operand of width `w`, high byte first: the write half of a read-modify-write (R71, R260). -/
def State.writeWHighFirst (w : Width) (l : Loc) (v : Word) (s : State) : State :=
  match w with
  | .w8 => s.write8 (l.addr 0) (lo8 v)
  | .w16 => (s.write8 (l.addr 1) (hi8 v)).write8 (l.addr 0) (lo8 v)

/-! ### The registers -/

/-- `Acc` at width `w` (R12). -/
def State.acc (w : Width) (s : State) : Word := trunc w s.c

/-- `Acc <- v` at width `w`: 8 bits leave `B` unchanged (R11, R20). -/
def State.setAcc (w : Width) (v : Word) (s : State) : State :=
  match w with
  | .w8 => s.setC (join16 (hi8 s.c) (lo8 v))
  | .w16 => s.setC v

/-- `Normalize()` (R41). -/
def State.normalize (s : State) : State :=
  let t := if s.e then (((s.setFlag .m true).setFlag .x true).setSp (join16 1 (lo8 s.sp))) else s
  if t.flag .x then (t.setX (zext16 (lo8 t.x))).setY (zext16 (lo8 t.y)) else t

/-- `PC <- (PC + len) mod 2^16`, `PBR` unchanged: how an instruction that assigns no `PC` ends (R15, R27). -/
def State.advance (len : Nat) (s : State) : State := s.setPc (s.pc + BitVec.ofNat 16 len)

/-! ### The stack -/

/-- `Push8(v)` (R69): page 1 wraps in emulation mode. -/
def State.push8 (v : Byte) (s : State) : State :=
  (s.write8 (addr24 0 s.sp) v).setSp (if s.e then join16 (hi8 s.sp) (lo8 s.sp - 1) else s.sp - 1)

/-- `Push16(v)`: high byte first (R69). -/
def State.push16 (v : Word) (s : State) : State := (s.push8 (hi8 v)).push8 (lo8 v)

/-- `Pull8()` (R70). -/
def State.pull8 (s : State) : Byte × State :=
  let t := s.setSp (if s.e then join16 (hi8 s.sp) (lo8 s.sp + 1) else s.sp + 1)
  t.read8 (addr24 0 t.sp)

/-- `Pull16()` (R70). -/
def State.pull16 (s : State) : Word × State :=
  let lo := s.pull8
  let hi := lo.2.pull8
  (join16 hi.1 lo.1, hi.2)

/-- `Push8N(v)`: 16-bit stack arithmetic in both modes (R69, D15; log 14). -/
def State.push8N (v : Byte) (s : State) : State := (s.write8 (addr24 0 s.sp) v).setSp (s.sp - 1)

/-- `Push16` by `Push8N`. -/
def State.push16N (v : Word) (s : State) : State := (s.push8N (hi8 v)).push8N (lo8 v)

/-- `Pull8N()` (R70, D15; log 14). -/
def State.pull8N (s : State) : Byte × State :=
  let t := s.setSp (s.sp + 1)
  t.read8 (addr24 0 t.sp)

/-- `Pull16` by `Pull8N`. -/
def State.pull16N (s : State) : Word × State :=
  let lo := s.pull8N
  let hi := lo.2.pull8N
  (join16 hi.1 lo.1, hi.2)

/-- `SH <- $01` at the end of an instruction that used the 16-bit variants in emulation mode (R69). -/
def State.fixStackPage (s : State) : State := if s.e then s.setSp (join16 1 (lo8 s.sp)) else s

/-! ### Exceptions -/

/-- The exceptions taken through `Interrupt(kind, ret)` (R373, R380). -/
inductive InterruptKind where
  | nmi
  | irq
  | brk
  | cop
deriving DecidableEq, Repr

/-- The offset in bank 0 of the vector of an exception, `e` being the mode it is taken in (R382). -/
def vectorOffset (kind : InterruptKind) (e : Bool) : Word :=
  match kind, e with
  | .cop, false => 0xFFE4
  | .brk, false => 0xFFE6
  | .nmi, false => 0xFFEA
  | .irq, false => 0xFFEE
  | .cop, true => 0xFFF4
  | .nmi, true => 0xFFFA
  | .brk, true => 0xFFFE
  | .irq, true => 0xFFFE

/-- The offset in bank 0 of the RESET vector (R382). -/
def resetVectorOffset : Word := 0xFFFC

/-- The status byte an exception pushes: in emulation mode NMI and IRQ push bit 4, the `B` position, as 0 (R37, R380). -/
def pushedStatus (kind : InterruptKind) (e : Bool) (p : Byte) : Byte :=
  match kind with
  | .nmi => if e then p &&& 0xEF else p
  | .irq => if e then p &&& 0xEF else p
  | .brk => p
  | .cop => p

/-- The stack frame of an exception: `PBR` in native mode only, the return address, the status (R380). -/
def State.pushFrame (kind : InterruptKind) (ret : Word) (s : State) : State :=
  let t := if s.e then s else s.push8 s.pbr
  (t.push16 ret).push8 (pushedStatus kind s.e s.p)

/-- The start of a handler: I set, D cleared, bank 0, `PC` from the vector (R380, R382). -/
def State.enterHandler (vector : Word) (s : State) : State :=
  let t := ((s.setFlag .i true).setFlag .d false).setPbr 0
  let target := t.read16 (.bank0 vector)
  target.2.setPc target.1

/-- `Interrupt(kind, ret)` (R380). -/
def State.interrupt (kind : InterruptKind) (ret : Word) (s : State) : State :=
  (s.pushFrame kind ret).enterHandler (vectorOffset kind s.e)

/-- Return from an exception (R306, R385): `P` and `PC`, and in native mode `PBR`. -/
def State.returnFromInterrupt (s : State) : State :=
  let status := s.pull8
  let t := (status.2.setP status.1).normalize
  let target := t.pull16
  let u := target.2.setPc target.1
  if u.e then u else let bank := u.pull8; bank.2.setPbr bank.1

/-! ### Reset -/

/-- `P` after reset: m, x, i set, d cleared, and n, v, z, c taken from `draw` (R45, R420). -/
def resetStatus (draw : Byte) : Byte := (draw &&& 0xC3) ||| 0x34

/-- The platform after a reset during a run: RAM, ROM, the mapping and the history stay; registers are as after power-on (R421; log
19). -/
def System.afterReset (y : System) : System := { y with io := [], rddiv := 0, rdmpy := 0, rddivWait := 0, rdmpyWait := 0 }

/-- `Reset()` during a run (R420): what reset does not initialise is a free value (D11; log 19). -/
def State.resetMachine (s : State) : State :=
  let t : State := { s with
    stopped := false
    waiting := false
    nmiPending := false
    e := true
    p := resetStatus (Config.resetFlags s.free)
    d := 0
    dbr := 0
    pbr := 0
    sp := join16 1 (Config.resetSl s.free)
    x := zext16 (Config.resetXl s.free)
    y := zext16 (Config.resetYl s.free)
    c := Config.resetC s.free
    free := s.free + 1
    sys := s.sys.afterReset }
  let target := t.read16 (.bank0 resetVectorOffset)
  target.2.setPc target.1

/-! ### The instruction boundary -/

/-- The environment's sample at this boundary is taken (R375, R376, D13): the IRQ level is copied and an NMI edge sets `nmiPending`,
while stopped too, where nothing acts on it until reset clears it, so that it is lost (R372, V12.10). With no sample left, no edge
arrives and the level stays (log 17). -/
def State.sample (s : State) : State :=
  match s.inputs with
  | [] => s
  | i :: rest => ((s.setInputs rest).setIrqLine i.irqLine).setNmiPending (s.nmiPending || i.nmiEdge)

/-- The sample at this boundary asks for a reset (R381, R448). -/
def State.resetRequested (s : State) : Bool :=
  match s.inputs with
  | [] => false
  | i :: _ => i.reset

/-- What a step of the processor does (R381). -/
inductive Action where
  | reset
  | nothing
  | nmi
  | irq
  | idle
  | fetch
deriving DecidableEq, Repr

/-- The choice of R381, in its priority order, on the state after sampling. -/
def State.action (s : State) (resetAsked : Bool) : Action :=
  if resetAsked then .reset
  else if s.stopped then .nothing
  else if s.nmiPending then .nmi
  else if s.irqLine && !s.flag .i then .irq
  else if s.waiting then .idle
  else .fetch

/-- An NMI is taken (R381): the request is cleared and WAI ends. -/
def State.takeNmi (s : State) : State := ((s.setWaiting false).setNmiPending false).interrupt .nmi s.pc

/-- An IRQ is taken (R381): WAI ends. -/
def State.takeIrq (s : State) : State := (s.setWaiting false).interrupt .irq s.pc

/-- A step while waiting with no interrupt to take: a masked IRQ ends the wait (R378, R381). -/
def State.idle (s : State) : State := if s.irqLine then s.setWaiting false else s

/-! ### Fetch -/

/-- `n` bytes from `PBR:o` on, wrapping inside the bank, one after the other (R27, R67). -/
def State.readProg (s : State) (o : Word) : Nat → List Byte × State
  | 0 => ([], s)
  | n + 1 =>
    let b := s.read8 (addr24 s.pbr o)
    let rest := b.2.readProg (o + 1) n
    (b.1 :: rest.1, rest.2)

/-- The bytes of the instruction at `PBR:PC`, as many as its opcode has under the current flags (R67, R100, R103, R115). -/
def State.fetchBytes (s : State) : List Byte × State :=
  let op := s.read8 (addr24 s.pbr s.pc)
  let rest := op.2.readProg (s.pc + 1) (opcodeLength (s.flag .m) (s.flag .x) op.1 - 1)
  (op.1 :: rest.1, rest.2)

/-- The instruction at `PBR:PC` (R381, R26): its bytes are fetched and decoded with the current `P.m`, `P.x`. A pending result of
the multiplier or divider comes one instruction nearer (R436; log 9). -/
def State.fetch (s : State) : Instr × State :=
  let bytes := (s.setSys s.sys.tickMath).fetchBytes
  (decodeRaw (bytes.1.getD 0 0) ⟨s.flag .m, s.flag .x, bytes.1.getD 1 0, bytes.1.getD 2 0, bytes.1.getD 3 0⟩, bytes.2)

/-! ### Placing an instruction -/

/-- The address of byte `k` of the instruction at `PBR:PC` (R67). -/
def State.fetchAddr (s : State) (k : Nat) : Addr := addr24 s.pbr (s.pc + BitVec.ofNat 16 k)

/-- Every one of the four bytes an instruction can take at `PBR:PC` is RAM or ROM. -/
def State.fetchesMemory (s : State) : Bool :=
  (s.sys.cell (s.fetchAddr 0)).isSome && (s.sys.cell (s.fetchAddr 1)).isSome && (s.sys.cell (s.fetchAddr 2)).isSome &&
    (s.sys.cell (s.fetchAddr 3)).isSome

/-- The next step is an instruction, whatever the state was: no stop, no wait, no request (log 25). -/
def State.readyToFetch (s : State) : State :=
  { s with stopped := false, waiting := false, nmiPending := false, irqLine := false, inputs := [] }

/-- `PBR:PC` is moved to `$7E:0000` when an instruction at it would not be fetched from RAM or ROM alone (log 25). -/
def State.fetchFromMemory (s : State) : State := if s.fetchesMemory then s else (s.setPbr 0x7E).setPc 0

/-- The bytes are placed in RAM or ROM from byte `k` of the instruction on. -/
def State.placeBytes (s : State) (k : Nat) : List Byte → State
  | [] => s
  | b :: rest => (s.setSys (s.sys.poke (s.fetchAddr k) b)).placeBytes (k + 1) rest

end Sys2Proof.Machine
end

