-- ==== Sys2Proof/Machine/Operands.lean ====
section
/-! DEFINITION. The operand forms: the addressing modes with a memory operand (R132 to R136, R141 to R150, R158), immediate (R131)
and accumulator (R151), and the operand helpers of R159 and R260. -/

namespace Sys2Proof.Machine

/-- The fifteen addressing modes with a data operand in memory (R130). -/
inductive Mode where
  /-- `d` (R141) -/
  | dp (d : Byte)
  /-- `d,X` (R142) -/
  | dpX (d : Byte)
  /-- `d,Y` (R143) -/
  | dpY (d : Byte)
  /-- `(d)` (R144) -/
  | dpInd (d : Byte)
  /-- `(d,X)` (R145) -/
  | dpIndX (d : Byte)
  /-- `(d),Y` (R146) -/
  | dpIndY (d : Byte)
  /-- `[d]` (R147) -/
  | dpIndLong (d : Byte)
  /-- `[d],Y` (R148) -/
  | dpIndLongY (d : Byte)
  /-- `d,S` (R149) -/
  | sr (d : Byte)
  /-- `(d,S),Y` (R150) -/
  | srIndY (d : Byte)
  /-- `a` (R132) -/
  | abs (a : Word)
  /-- `a,X` (R133) -/
  | absX (a : Word)
  /-- `a,Y` (R134) -/
  | absY (a : Word)
  /-- `al` (R135) -/
  | long (a : Addr)
  /-- `al,X` (R136) -/
  | longX (a : Addr)
deriving DecidableEq, Repr

/-- The operand an instruction reads: immediate or in memory. -/
inductive Source where
  | imm (v : Word)
  | mem (m : Mode)
deriving DecidableEq, Repr

/-- The operand an instruction reads and writes: the accumulator or memory. -/
inductive Place where
  | acc
  | mem (m : Mode)
deriving DecidableEq, Repr

/-- The length of an instruction with this memory operand (R102, R103). -/
def Mode.length : Mode → Nat
  | .dp _ => 2
  | .dpX _ => 2
  | .dpY _ => 2
  | .dpInd _ => 2
  | .dpIndX _ => 2
  | .dpIndY _ => 2
  | .dpIndLong _ => 2
  | .dpIndLongY _ => 2
  | .sr _ => 2
  | .srIndY _ => 2
  | .abs _ => 3
  | .absX _ => 3
  | .absY _ => 3
  | .long _ => 4
  | .longX _ => 4

/-- The length of an instruction with this operand at width `w` (R103, R105, R115). -/
def Source.length (w : Width) : Source → Nat
  | .imm _ => 1 + widthBytes w
  | .mem m => m.length

/-- The length of an instruction with this operand (R103). -/
def Place.length : Place → Nat
  | .acc => 1
  | .mem m => m.length

/-- `DPW`: emulation mode with `DL = $00` (R158). -/
def State.dpw (s : State) : Bool := s.e && lo8 s.d == 0

/-- The direct-page location `d` plus an index (R141 to R143): in bank 0, or inside the page when `DPW` holds. -/
def State.direct (d : Byte) (index : Word) (s : State) : Loc :=
  if s.dpw then .page (join16 (hi8 s.d) (d + lo8 index)) else .bank0 (s.d + zext16 d + index)

/-- The direct-page location of the modes that never wrap in the page: `[d]`, `[d],Y` and PEI (R147, R148, R158, R214). -/
def State.directNoWrap (d : Byte) (s : State) : Loc := .bank0 (s.d + zext16 d)

/-- The stack-relative location (R149, R150). -/
def State.stackRelative (d : Byte) (s : State) : Loc := .bank0 (s.sp + zext16 d)

/-- The data at `DBR ++ p`, plus an index that carries into the bank (R132 to R134, R144 to R146, R150). -/
def State.dataBank (p index : Word) (s : State) : Loc := .linear (addr24 s.dbr p + zext24 index)

/-- Where the operand is, and the state after the pointer, if any, was read (R132 to R150, R157). -/
def Mode.resolve (m : Mode) (s : State) : Loc × State :=
  match m with
  | .dp d => (s.direct d 0, s)
  | .dpX d => (s.direct d s.x, s)
  | .dpY d => (s.direct d s.y, s)
  | .dpInd d => let p := s.read16 (s.direct d 0); (s.dataBank p.1 0, p.2)
  | .dpIndX d => let p := s.read16 (s.direct d s.x); (s.dataBank p.1 0, p.2)
  | .dpIndY d => let p := s.read16 (s.direct d 0); (s.dataBank p.1 s.y, p.2)
  | .dpIndLong d => let p := s.read24 (s.directNoWrap d); (.linear p.1, p.2)
  | .dpIndLongY d => let p := s.read24 (s.directNoWrap d); (.linear (p.1 + zext24 s.y), p.2)
  | .sr d => (s.stackRelative d, s)
  | .srIndY d => let p := s.read16 (s.stackRelative d); (s.dataBank p.1 s.y, p.2)
  | .abs a => (s.dataBank a 0, s)
  | .absX a => (s.dataBank a s.x, s)
  | .absY a => (s.dataBank a s.y, s)
  | .long a => (.linear a, s)
  | .longX a => (.linear (a + zext24 s.x), s)

/-- `ReadOperand` (R159): the value and the state after the reads. -/
def Source.read (w : Width) (src : Source) (s : State) : Word × State :=
  match src with
  | .imm v => (trunc w v, s)
  | .mem m => (m.resolve s).2.readW w (m.resolve s).1

/-- `WriteOperand` by a store (R159, R71). -/
def Mode.store (w : Width) (m : Mode) (v : Word) (s : State) : State :=
  (m.resolve s).2.writeW w (m.resolve s).1 v

/-- The read-modify-write sequence (R260), on memory or on the accumulator: the old value, and the state with `f` of it written. -/
def Place.modify (w : Width) (p : Place) (f : Word → Word) (s : State) : Word × State :=
  match p with
  | .acc => (s.acc w, s.setAcc w (f (s.acc w)))
  | .mem m =>
    let old := (m.resolve s).2.readW w (m.resolve s).1
    (old.1, old.2.writeWHighFirst w (m.resolve s).1 (f old.1))

end Sys2Proof.Machine
end

