-- ==== Sys2Proof/Machine/Arithmetic.lean ====
section
/-! DEFINITION. The meanings of ADC SBC INC DEC INX INY DEX DEY (file 43, R230 to R239): the shared operation of each
mnemonic, then one meaning per opcode. -/

namespace Sys2Proof.Machine

/-- The result of an addition or subtraction goes to `Acc` and N, V, Z, C (R230, R231). -/
def State.takeSum (w : Width) (r : Sum) (s : State) : State :=
  (((s.setAcc w r.result).setFlag .c r.carry).setFlag .v r.overflow).setNZ w r.result

/-- ADC's sum (R230, R232). -/
def State.adcSum (w : Width) (m : Word) (s : State) : Sum :=
  if s.decimalMode then addDecimal w s.free (s.acc w) m (s.flag .c) else addBinary w (s.acc w) m (s.flag .c)

/-- SBC's difference (R231, R233). -/
def State.sbcSum (w : Width) (m : Word) (s : State) : Sum :=
  if s.decimalMode then subDecimal w s.free (s.acc w) m (s.flag .c) else subBinary w (s.acc w) m (s.flag .c)

/-- A decimal addition or subtraction takes one draw of free values (log 13). -/
def State.drawIfDecimal (s : State) : State := if s.decimalMode then s.setFree (s.free + 1) else s

/-- ADC (R230, R232). -/
def State.opAdc (src : Source) (s : State) : State :=
  let r := src.read s.wA s
  (r.2.drawIfDecimal.takeSum s.wA (r.2.adcSum s.wA r.1)).advance (src.length s.wA)

/-- SBC (R231, R233). -/
def State.opSbc (src : Source) (s : State) : State :=
  let r := src.read s.wA s
  (r.2.drawIfDecimal.takeSum s.wA (r.2.sbcSum s.wA r.1)).advance (src.length s.wA)

/-- INC (R234). -/
def State.opInc (p : Place) (s : State) : State :=
  let r := p.modify s.wA (incValue s.wA) s
  (r.2.setNZ s.wA (incValue s.wA r.1)).advance p.length

/-- DEC (R237). -/
def State.opDec (p : Place) (s : State) : State :=
  let r := p.modify s.wA (decValue s.wA) s
  (r.2.setNZ s.wA (decValue s.wA r.1)).advance p.length

/-- INX (R235). -/
def State.opInx (s : State) : State := ((s.setX (incValue s.wX s.x)).setNZ s.wX (incValue s.wX s.x)).advance 1

/-- INY (R236). -/
def State.opIny (s : State) : State := ((s.setY (incValue s.wX s.y)).setNZ s.wX (incValue s.wX s.y)).advance 1

/-- DEX (R238). -/
def State.opDex (s : State) : State := ((s.setX (decValue s.wX s.x)).setNZ s.wX (decValue s.wX s.x)).advance 1

/-- DEY (R239). -/
def State.opDey (s : State) : State := ((s.setY (decValue s.wX s.y)).setNZ s.wX (decValue s.wX s.y)).advance 1

/-- INC `A`, opcode $1A (R234). -/
def execIncAcc (s : State) : Result := .next (s.opInc .acc)

/-- DEC `A`, opcode $3A (R237). -/
def execDecAcc (s : State) : Result := .next (s.opDec .acc)

/-- ADC `(d,X)`, opcode $61 (R230). -/
def execAdcDpIndX (d : Byte) (s : State) : Result := .next (s.opAdc (.mem (.dpIndX d)))

/-- ADC `d,S`, opcode $63 (R230). -/
def execAdcSr (d : Byte) (s : State) : Result := .next (s.opAdc (.mem (.sr d)))

/-- ADC `d`, opcode $65 (R230). -/
def execAdcDp (d : Byte) (s : State) : Result := .next (s.opAdc (.mem (.dp d)))

/-- ADC `[d]`, opcode $67 (R230). -/
def execAdcDpIndLong (d : Byte) (s : State) : Result := .next (s.opAdc (.mem (.dpIndLong d)))

/-- ADC `#`, opcode $69 (R230). -/
def execAdcImm (v : Word) (s : State) : Result := .next (s.opAdc (.imm v))

/-- ADC `a`, opcode $6D (R230). -/
def execAdcAbs (a : Word) (s : State) : Result := .next (s.opAdc (.mem (.abs a)))

/-- ADC `al`, opcode $6F (R230). -/
def execAdcLong (a : Addr) (s : State) : Result := .next (s.opAdc (.mem (.long a)))

/-- ADC `(d),Y`, opcode $71 (R230). -/
def execAdcDpIndY (d : Byte) (s : State) : Result := .next (s.opAdc (.mem (.dpIndY d)))

/-- ADC `(d)`, opcode $72 (R230). -/
def execAdcDpInd (d : Byte) (s : State) : Result := .next (s.opAdc (.mem (.dpInd d)))

/-- ADC `(d,S),Y`, opcode $73 (R230). -/
def execAdcSrIndY (d : Byte) (s : State) : Result := .next (s.opAdc (.mem (.srIndY d)))

/-- ADC `d,X`, opcode $75 (R230). -/
def execAdcDpX (d : Byte) (s : State) : Result := .next (s.opAdc (.mem (.dpX d)))

/-- ADC `[d],Y`, opcode $77 (R230). -/
def execAdcDpIndLongY (d : Byte) (s : State) : Result := .next (s.opAdc (.mem (.dpIndLongY d)))

/-- ADC `a,Y`, opcode $79 (R230). -/
def execAdcAbsY (a : Word) (s : State) : Result := .next (s.opAdc (.mem (.absY a)))

/-- ADC `a,X`, opcode $7D (R230). -/
def execAdcAbsX (a : Word) (s : State) : Result := .next (s.opAdc (.mem (.absX a)))

/-- ADC `al,X`, opcode $7F (R230). -/
def execAdcLongX (a : Addr) (s : State) : Result := .next (s.opAdc (.mem (.longX a)))

/-- DEY, opcode $88 (R239). -/
def execDey (s : State) : Result := .next (s.opDey)

/-- DEC `d`, opcode $C6 (R237). -/
def execDecDp (d : Byte) (s : State) : Result := .next (s.opDec (.mem (.dp d)))

/-- INY, opcode $C8 (R236). -/
def execIny (s : State) : Result := .next (s.opIny)

/-- DEX, opcode $CA (R238). -/
def execDex (s : State) : Result := .next (s.opDex)

/-- DEC `a`, opcode $CE (R237). -/
def execDecAbs (a : Word) (s : State) : Result := .next (s.opDec (.mem (.abs a)))

/-- DEC `d,X`, opcode $D6 (R237). -/
def execDecDpX (d : Byte) (s : State) : Result := .next (s.opDec (.mem (.dpX d)))

/-- DEC `a,X`, opcode $DE (R237). -/
def execDecAbsX (a : Word) (s : State) : Result := .next (s.opDec (.mem (.absX a)))

/-- SBC `(d,X)`, opcode $E1 (R231). -/
def execSbcDpIndX (d : Byte) (s : State) : Result := .next (s.opSbc (.mem (.dpIndX d)))

/-- SBC `d,S`, opcode $E3 (R231). -/
def execSbcSr (d : Byte) (s : State) : Result := .next (s.opSbc (.mem (.sr d)))

/-- SBC `d`, opcode $E5 (R231). -/
def execSbcDp (d : Byte) (s : State) : Result := .next (s.opSbc (.mem (.dp d)))

/-- INC `d`, opcode $E6 (R234). -/
def execIncDp (d : Byte) (s : State) : Result := .next (s.opInc (.mem (.dp d)))

/-- SBC `[d]`, opcode $E7 (R231). -/
def execSbcDpIndLong (d : Byte) (s : State) : Result := .next (s.opSbc (.mem (.dpIndLong d)))

/-- INX, opcode $E8 (R235). -/
def execInx (s : State) : Result := .next (s.opInx)

/-- SBC `#`, opcode $E9 (R231). -/
def execSbcImm (v : Word) (s : State) : Result := .next (s.opSbc (.imm v))

/-- SBC `a`, opcode $ED (R231). -/
def execSbcAbs (a : Word) (s : State) : Result := .next (s.opSbc (.mem (.abs a)))

/-- INC `a`, opcode $EE (R234). -/
def execIncAbs (a : Word) (s : State) : Result := .next (s.opInc (.mem (.abs a)))

/-- SBC `al`, opcode $EF (R231). -/
def execSbcLong (a : Addr) (s : State) : Result := .next (s.opSbc (.mem (.long a)))

/-- SBC `(d),Y`, opcode $F1 (R231). -/
def execSbcDpIndY (d : Byte) (s : State) : Result := .next (s.opSbc (.mem (.dpIndY d)))

/-- SBC `(d)`, opcode $F2 (R231). -/
def execSbcDpInd (d : Byte) (s : State) : Result := .next (s.opSbc (.mem (.dpInd d)))

/-- SBC `(d,S),Y`, opcode $F3 (R231). -/
def execSbcSrIndY (d : Byte) (s : State) : Result := .next (s.opSbc (.mem (.srIndY d)))

/-- SBC `d,X`, opcode $F5 (R231). -/
def execSbcDpX (d : Byte) (s : State) : Result := .next (s.opSbc (.mem (.dpX d)))

/-- INC `d,X`, opcode $F6 (R234). -/
def execIncDpX (d : Byte) (s : State) : Result := .next (s.opInc (.mem (.dpX d)))

/-- SBC `[d],Y`, opcode $F7 (R231). -/
def execSbcDpIndLongY (d : Byte) (s : State) : Result := .next (s.opSbc (.mem (.dpIndLongY d)))

/-- SBC `a,Y`, opcode $F9 (R231). -/
def execSbcAbsY (a : Word) (s : State) : Result := .next (s.opSbc (.mem (.absY a)))

/-- SBC `a,X`, opcode $FD (R231). -/
def execSbcAbsX (a : Word) (s : State) : Result := .next (s.opSbc (.mem (.absX a)))

/-- INC `a,X`, opcode $FE (R234). -/
def execIncAbsX (a : Word) (s : State) : Result := .next (s.opInc (.mem (.absX a)))

/-- SBC `al,X`, opcode $FF (R231). -/
def execSbcLongX (a : Addr) (s : State) : Result := .next (s.opSbc (.mem (.longX a)))

end Sys2Proof.Machine
end

