-- ==== Sys2Proof/Machine/BlockMove.lean ====
section
/-! DEFINITION. The meanings of MVN MVP (file 49, R360 to R362): the shared operation of each
mnemonic, then one meaning per opcode. -/

namespace Sys2Proof.Machine

/-- One byte of a block move (R362): `step` is 1 for MVN and -1 for MVP. `PC` stays until the last byte is moved. -/
def State.moveBlock (step : Word) (dst src : Byte) (s : State) : State :=
  let b := s.read8 (addr24 src s.x)
  let t := (b.2.write8 (addr24 dst s.y) b.1).setDbr dst
  let u := ((t.setX (trunc s.wX (s.x + step))).setY (trunc s.wX (s.y + step))).setC (s.c - 1)
  if s.c - 1 = 0xFFFF then u.advance 3 else u

/-- MVP, opcode $44 (R361). -/
def execMvp (dst : Byte) (src : Byte) (s : State) : Result := .next (s.moveBlock (-1) dst src)

/-- MVN, opcode $54 (R360). -/
def execMvn (dst : Byte) (src : Byte) (s : State) : Result := .next (s.moveBlock 1 dst src)

end Sys2Proof.Machine
end

