-- ==== Sys2Proof/Machine/Branch.lean ====
section
/-! DEFINITION. The meanings of BCC BCS BEQ BNE BMI BPL BVC BVS BRA BRL (file 45, R280 to R290): the shared operation of each
mnemonic, then one meaning per opcode. -/

namespace Sys2Proof.Machine

/-- A branch with an 8-bit displacement from the next instruction, taken or not (R280, R154). -/
def State.branch (taken : Bool) (disp : Byte) (s : State) : State :=
  if taken then s.setPc (s.pc + 2 + sext16 disp) else s.advance 2

/-- BRL's branch, with a 16-bit displacement (R280, R155, R290). -/
def State.branchLong (disp : Word) (s : State) : State := s.setPc (s.pc + 3 + disp)

/-- BPL, opcode $10 (R286). -/
def execBpl (disp : Byte) (s : State) : Result := .next (s.branch (!s.flag .n) disp)

/-- BMI, opcode $30 (R285). -/
def execBmi (disp : Byte) (s : State) : Result := .next (s.branch (s.flag .n) disp)

/-- BVC, opcode $50 (R287). -/
def execBvc (disp : Byte) (s : State) : Result := .next (s.branch (!s.flag .v) disp)

/-- BVS, opcode $70 (R288). -/
def execBvs (disp : Byte) (s : State) : Result := .next (s.branch (s.flag .v) disp)

/-- BRA, opcode $80 (R289). -/
def execBra (disp : Byte) (s : State) : Result := .next (s.branch true disp)

/-- BRL, opcode $82 (R290). -/
def execBrl (disp : Word) (s : State) : Result := .next (s.branchLong disp)

/-- BCC, opcode $90 (R281). -/
def execBcc (disp : Byte) (s : State) : Result := .next (s.branch (!s.flag .c) disp)

/-- BCS, opcode $B0 (R282). -/
def execBcs (disp : Byte) (s : State) : Result := .next (s.branch (s.flag .c) disp)

/-- BNE, opcode $D0 (R284). -/
def execBne (disp : Byte) (s : State) : Result := .next (s.branch (!s.flag .z) disp)

/-- BEQ, opcode $F0 (R283). -/
def execBeq (disp : Byte) (s : State) : Result := .next (s.branch (s.flag .z) disp)

end Sys2Proof.Machine
end

