-- ==== Sys2Proof/Machine/Compare.lean ====
section
/-! DEFINITION. The meanings of CMP CPX CPY (file 47, R320 to R322): the shared operation of each
mnemonic, then one meaning per opcode. -/

namespace Sys2Proof.Machine

/-- The flags of a compare of register value `r` with `m` (file 47, common operation): C, Z, N only. -/
def State.compareFlags (w : Width) (r m : Word) (s : State) : State :=
  ((s.setFlag .c (decide (m.toNat ≤ r.toNat))).setFlag .z (r == m)).setFlag .n (msb w (difference w r m))

/-- CMP (R320). -/
def State.opCmp (src : Source) (s : State) : State :=
  let r := src.read s.wA s
  (r.2.compareFlags s.wA (s.acc s.wA) r.1).advance (src.length s.wA)

/-- CPX (R321). -/
def State.opCpx (src : Source) (s : State) : State :=
  let r := src.read s.wX s
  (r.2.compareFlags s.wX (trunc s.wX s.x) r.1).advance (src.length s.wX)

/-- CPY (R322). -/
def State.opCpy (src : Source) (s : State) : State :=
  let r := src.read s.wX s
  (r.2.compareFlags s.wX (trunc s.wX s.y) r.1).advance (src.length s.wX)

/-- CPY `#`, opcode $C0 (R322). -/
def execCpyImm (v : Word) (s : State) : Result := .next (s.opCpy (.imm v))

/-- CMP `(d,X)`, opcode $C1 (R320). -/
def execCmpDpIndX (d : Byte) (s : State) : Result := .next (s.opCmp (.mem (.dpIndX d)))

/-- CMP `d,S`, opcode $C3 (R320). -/
def execCmpSr (d : Byte) (s : State) : Result := .next (s.opCmp (.mem (.sr d)))

/-- CPY `d`, opcode $C4 (R322). -/
def execCpyDp (d : Byte) (s : State) : Result := .next (s.opCpy (.mem (.dp d)))

/-- CMP `d`, opcode $C5 (R320). -/
def execCmpDp (d : Byte) (s : State) : Result := .next (s.opCmp (.mem (.dp d)))

/-- CMP `[d]`, opcode $C7 (R320). -/
def execCmpDpIndLong (d : Byte) (s : State) : Result := .next (s.opCmp (.mem (.dpIndLong d)))

/-- CMP `#`, opcode $C9 (R320). -/
def execCmpImm (v : Word) (s : State) : Result := .next (s.opCmp (.imm v))

/-- CPY `a`, opcode $CC (R322). -/
def execCpyAbs (a : Word) (s : State) : Result := .next (s.opCpy (.mem (.abs a)))

/-- CMP `a`, opcode $CD (R320). -/
def execCmpAbs (a : Word) (s : State) : Result := .next (s.opCmp (.mem (.abs a)))

/-- CMP `al`, opcode $CF (R320). -/
def execCmpLong (a : Addr) (s : State) : Result := .next (s.opCmp (.mem (.long a)))

/-- CMP `(d),Y`, opcode $D1 (R320). -/
def execCmpDpIndY (d : Byte) (s : State) : Result := .next (s.opCmp (.mem (.dpIndY d)))

/-- CMP `(d)`, opcode $D2 (R320). -/
def execCmpDpInd (d : Byte) (s : State) : Result := .next (s.opCmp (.mem (.dpInd d)))

/-- CMP `(d,S),Y`, opcode $D3 (R320). -/
def execCmpSrIndY (d : Byte) (s : State) : Result := .next (s.opCmp (.mem (.srIndY d)))

/-- CMP `d,X`, opcode $D5 (R320). -/
def execCmpDpX (d : Byte) (s : State) : Result := .next (s.opCmp (.mem (.dpX d)))

/-- CMP `[d],Y`, opcode $D7 (R320). -/
def execCmpDpIndLongY (d : Byte) (s : State) : Result := .next (s.opCmp (.mem (.dpIndLongY d)))

/-- CMP `a,Y`, opcode $D9 (R320). -/
def execCmpAbsY (a : Word) (s : State) : Result := .next (s.opCmp (.mem (.absY a)))

/-- CMP `a,X`, opcode $DD (R320). -/
def execCmpAbsX (a : Word) (s : State) : Result := .next (s.opCmp (.mem (.absX a)))

/-- CMP `al,X`, opcode $DF (R320). -/
def execCmpLongX (a : Addr) (s : State) : Result := .next (s.opCmp (.mem (.longX a)))

/-- CPX `#`, opcode $E0 (R321). -/
def execCpxImm (v : Word) (s : State) : Result := .next (s.opCpx (.imm v))

/-- CPX `d`, opcode $E4 (R321). -/
def execCpxDp (d : Byte) (s : State) : Result := .next (s.opCpx (.mem (.dp d)))

/-- CPX `a`, opcode $EC (R321). -/
def execCpxAbs (a : Word) (s : State) : Result := .next (s.opCpx (.mem (.abs a)))

end Sys2Proof.Machine
end

