-- ==== Sys2Proof/Machine/Control.lean ====
section
/-! DEFINITION. The meanings of NOP WDM STP WAI XBA XCE REP SEP CLC SEC CLI SEI CLD SED CLV BRK COP (file 48, R330 to R346): the shared operation of each
mnemonic, then one meaning per opcode. -/

namespace Sys2Proof.Machine

/-- STP (R332). -/
def State.opStp (s : State) : State := (s.setStopped true).advance 1

/-- WAI (R333). -/
def State.opWai (s : State) : State := (s.setWaiting true).advance 1

/-- XBA (R334): N and Z from the new low byte, whatever `P.m` is. -/
def State.opXba (s : State) : State :=
  ((s.setC (join16 (lo8 s.c) (hi8 s.c))).setNZ .w8 (zext16 (hi8 s.c))).advance 1

/-- XCE (R335). -/
def State.opXce (s : State) : State :=
  (((s.setFlag .c s.e).setE (s.flag .c)).normalize).advance 1

/-- REP (R336). -/
def State.opRep (mask : Byte) (s : State) : State := ((s.setP (s.p &&& ~~~mask)).normalize).advance 2

/-- SEP (R337). -/
def State.opSep (mask : Byte) (s : State) : State := ((s.setP (s.p ||| mask)).normalize).advance 2

/-- BRK, opcode $00 (R345). -/
def execBrk (_sig : Byte) (s : State) : Result := .next (s.interrupt .brk (s.pc + 2))

/-- COP, opcode $02 (R346). -/
def execCop (_sig : Byte) (s : State) : Result := .next (s.interrupt .cop (s.pc + 2))

/-- CLC, opcode $18 (R338). -/
def execClc (s : State) : Result := .next ((s.setFlag .c false).advance 1)

/-- SEC, opcode $38 (R339). -/
def execSec (s : State) : Result := .next ((s.setFlag .c true).advance 1)

/-- WDM, opcode $42 (R331). -/
def execWdm (_sig : Byte) (s : State) : Result := .next (s.advance 2)

/-- CLI, opcode $58 (R340). -/
def execCli (s : State) : Result := .next ((s.setFlag .i false).advance 1)

/-- SEI, opcode $78 (R341). -/
def execSei (s : State) : Result := .next ((s.setFlag .i true).advance 1)

/-- CLV, opcode $B8 (R344). -/
def execClv (s : State) : Result := .next ((s.setFlag .v false).advance 1)

/-- REP, opcode $C2 (R336). -/
def execRep (mask : Byte) (s : State) : Result := .next (s.opRep mask)

/-- WAI, opcode $CB (R333). -/
def execWai (s : State) : Result := .next (s.opWai)

/-- CLD, opcode $D8 (R342). -/
def execCld (s : State) : Result := .next ((s.setFlag .d false).advance 1)

/-- STP, opcode $DB (R332). -/
def execStp (s : State) : Result := .next (s.opStp)

/-- SEP, opcode $E2 (R337). -/
def execSep (mask : Byte) (s : State) : Result := .next (s.opSep mask)

/-- NOP, opcode $EA (R330). -/
def execNop (s : State) : Result := .next (s.advance 1)

/-- XBA, opcode $EB (R334). -/
def execXba (s : State) : Result := .next (s.opXba)

/-- SED, opcode $F8 (R343). -/
def execSed (s : State) : Result := .next ((s.setFlag .d true).advance 1)

/-- XCE, opcode $FB (R335). -/
def execXce (s : State) : Result := .next (s.opXce)

end Sys2Proof.Machine
end

