-- ==== Sys2Proof/Machine/Jump.lean ====
section
/-! DEFINITION. The meanings of JMP JML JSR JSL RTS RTL RTI (file 46, R300 to R306): the shared operation of each
mnemonic, then one meaning per opcode. -/

namespace Sys2Proof.Machine

/-- `JMP a` (R300, R137). -/
def State.opJmp (a : Word) (s : State) : State := s.setPc a

/-- `JMP (a)` (R300, R138): the pointer is in bank 0. -/
def State.opJmpInd (a : Word) (s : State) : State :=
  let t := s.read16 (.bank0 a)
  t.2.setPc t.1

/-- `JMP (a,X)` (R300, R139): the pointer is in the program bank. -/
def State.opJmpIndX (a : Word) (s : State) : State :=
  let t := s.read16 (.prog s.pbr (a + s.x))
  t.2.setPc t.1

/-- `JML al` (R301). -/
def State.opJml (a : Addr) (s : State) : State := (s.setPc a.off).setPbr a.bank

/-- `JML [a]` (R301, R140): a 24-bit pointer in bank 0. -/
def State.opJmlInd (a : Word) (s : State) : State :=
  let t := s.read24 (.bank0 a)
  (t.2.setPc t.1.off).setPbr t.1.bank

/-- `JSR a` (R302): the address of the instruction's last byte is pushed. -/
def State.opJsr (a : Word) (s : State) : State := (s.push16 (s.pc + 2)).setPc a

/-- `JSR (a,X)` (R302): the push, with the 16-bit stack arithmetic of R69, comes before the pointer read. -/
def State.opJsrIndX (a : Word) (s : State) : State :=
  let t := ((s.push16N (s.pc + 2)).fixStackPage).read16 (.prog s.pbr (a + s.x))
  t.2.setPc t.1

/-- JSL (R303): the program bank, then the address of the last byte. -/
def State.opJsl (a : Addr) (s : State) : State :=
  ((((s.push8N s.pbr).push16N (s.pc + 3)).fixStackPage).setPc a.off).setPbr a.bank

/-- RTS (R304). -/
def State.opRts (s : State) : State :=
  let t := s.pull16
  t.2.setPc (t.1 + 1)

/-- RTL (R305): the increment does not carry into the bank. -/
def State.opRtl (s : State) : State :=
  let t := s.pull16N
  let bank := (t.2.setPc (t.1 + 1)).pull8N
  (bank.2.setPbr bank.1).fixStackPage

/-- JSR `a`, opcode $20 (R302). -/
def execJsrAbs (a : Word) (s : State) : Result := .next (s.opJsr a)

/-- JSL, opcode $22 (R303). -/
def execJsl (a : Addr) (s : State) : Result := .next (s.opJsl a)

/-- RTI, opcode $40 (R306). -/
def execRti (s : State) : Result := .next (s.returnFromInterrupt)

/-- JMP `a`, opcode $4C (R300). -/
def execJmpAbs (a : Word) (s : State) : Result := .next (s.opJmp a)

/-- JML `al`, opcode $5C (R301). -/
def execJmlLong (a : Addr) (s : State) : Result := .next (s.opJml a)

/-- RTS, opcode $60 (R304). -/
def execRts (s : State) : Result := .next (s.opRts)

/-- RTL, opcode $6B (R305). -/
def execRtl (s : State) : Result := .next (s.opRtl)

/-- JMP `(a)`, opcode $6C (R300). -/
def execJmpAbsInd (a : Word) (s : State) : Result := .next (s.opJmpInd a)

/-- JMP `(a,X)`, opcode $7C (R300). -/
def execJmpAbsIndX (a : Word) (s : State) : Result := .next (s.opJmpIndX a)

/-- JML `[a]`, opcode $DC (R301). -/
def execJmlAbsIndLong (a : Word) (s : State) : Result := .next (s.opJmlInd a)

/-- JSR `(a,X)`, opcode $FC (R302). -/
def execJsrAbsIndX (a : Word) (s : State) : Result := .next (s.opJsrIndX a)

end Sys2Proof.Machine
end

