-- ==== Sys2Proof/Machine/LoadStore.lean ====
section
/-! DEFINITION. The meanings of LDA LDX LDY STA STX STY STZ (file 41, R170 to R176): the shared operation of each
mnemonic, then one meaning per opcode. -/

namespace Sys2Proof.Machine

/-- LDA (R170): the operand at width `wA` goes to `Acc`; N and Z from it. -/
def State.opLda (src : Source) (s : State) : State :=
  let r := src.read s.wA s
  ((r.2.setAcc s.wA r.1).setNZ s.wA r.1).advance (src.length s.wA)

/-- LDX (R171): the operand at width `wX`, zero-extended, goes to `X`. -/
def State.opLdx (src : Source) (s : State) : State :=
  let r := src.read s.wX s
  ((r.2.setX r.1).setNZ s.wX r.1).advance (src.length s.wX)

/-- LDY (R172). -/
def State.opLdy (src : Source) (s : State) : State :=
  let r := src.read s.wX s
  ((r.2.setY r.1).setNZ s.wX r.1).advance (src.length s.wX)

/-- STA (R173): `Acc` at width `wA`; no flag. -/
def State.opSta (m : Mode) (s : State) : State := (m.store s.wA (s.acc s.wA) s).advance m.length

/-- STX (R174): `X` at width `wX`. -/
def State.opStx (m : Mode) (s : State) : State := (m.store s.wX (trunc s.wX s.x) s).advance m.length

/-- STY (R175): `Y` at width `wX`. -/
def State.opSty (m : Mode) (s : State) : State := (m.store s.wX (trunc s.wX s.y) s).advance m.length

/-- STZ (R176): zero at width `wA`. -/
def State.opStz (m : Mode) (s : State) : State := (m.store s.wA 0 s).advance m.length

/-- STZ `d`, opcode $64 (R176). -/
def execStzDp (d : Byte) (s : State) : Result := .next (s.opStz (.dp d))

/-- STZ `d,X`, opcode $74 (R176). -/
def execStzDpX (d : Byte) (s : State) : Result := .next (s.opStz (.dpX d))

/-- STA `(d,X)`, opcode $81 (R173). -/
def execStaDpIndX (d : Byte) (s : State) : Result := .next (s.opSta (.dpIndX d))

/-- STA `d,S`, opcode $83 (R173). -/
def execStaSr (d : Byte) (s : State) : Result := .next (s.opSta (.sr d))

/-- STY `d`, opcode $84 (R175). -/
def execStyDp (d : Byte) (s : State) : Result := .next (s.opSty (.dp d))

/-- STA `d`, opcode $85 (R173). -/
def execStaDp (d : Byte) (s : State) : Result := .next (s.opSta (.dp d))

/-- STX `d`, opcode $86 (R174). -/
def execStxDp (d : Byte) (s : State) : Result := .next (s.opStx (.dp d))

/-- STA `[d]`, opcode $87 (R173). -/
def execStaDpIndLong (d : Byte) (s : State) : Result := .next (s.opSta (.dpIndLong d))

/-- STY `a`, opcode $8C (R175). -/
def execStyAbs (a : Word) (s : State) : Result := .next (s.opSty (.abs a))

/-- STA `a`, opcode $8D (R173). -/
def execStaAbs (a : Word) (s : State) : Result := .next (s.opSta (.abs a))

/-- STX `a`, opcode $8E (R174). -/
def execStxAbs (a : Word) (s : State) : Result := .next (s.opStx (.abs a))

/-- STA `al`, opcode $8F (R173). -/
def execStaLong (a : Addr) (s : State) : Result := .next (s.opSta (.long a))

/-- STA `(d),Y`, opcode $91 (R173). -/
def execStaDpIndY (d : Byte) (s : State) : Result := .next (s.opSta (.dpIndY d))

/-- STA `(d)`, opcode $92 (R173). -/
def execStaDpInd (d : Byte) (s : State) : Result := .next (s.opSta (.dpInd d))

/-- STA `(d,S),Y`, opcode $93 (R173). -/
def execStaSrIndY (d : Byte) (s : State) : Result := .next (s.opSta (.srIndY d))

/-- STY `d,X`, opcode $94 (R175). -/
def execStyDpX (d : Byte) (s : State) : Result := .next (s.opSty (.dpX d))

/-- STA `d,X`, opcode $95 (R173). -/
def execStaDpX (d : Byte) (s : State) : Result := .next (s.opSta (.dpX d))

/-- STX `d,Y`, opcode $96 (R174). -/
def execStxDpY (d : Byte) (s : State) : Result := .next (s.opStx (.dpY d))

/-- STA `[d],Y`, opcode $97 (R173). -/
def execStaDpIndLongY (d : Byte) (s : State) : Result := .next (s.opSta (.dpIndLongY d))

/-- STA `a,Y`, opcode $99 (R173). -/
def execStaAbsY (a : Word) (s : State) : Result := .next (s.opSta (.absY a))

/-- STZ `a`, opcode $9C (R176). -/
def execStzAbs (a : Word) (s : State) : Result := .next (s.opStz (.abs a))

/-- STA `a,X`, opcode $9D (R173). -/
def execStaAbsX (a : Word) (s : State) : Result := .next (s.opSta (.absX a))

/-- STZ `a,X`, opcode $9E (R176). -/
def execStzAbsX (a : Word) (s : State) : Result := .next (s.opStz (.absX a))

/-- STA `al,X`, opcode $9F (R173). -/
def execStaLongX (a : Addr) (s : State) : Result := .next (s.opSta (.longX a))

/-- LDY `#`, opcode $A0 (R172). -/
def execLdyImm (v : Word) (s : State) : Result := .next (s.opLdy (.imm v))

/-- LDA `(d,X)`, opcode $A1 (R170). -/
def execLdaDpIndX (d : Byte) (s : State) : Result := .next (s.opLda (.mem (.dpIndX d)))

/-- LDX `#`, opcode $A2 (R171). -/
def execLdxImm (v : Word) (s : State) : Result := .next (s.opLdx (.imm v))

/-- LDA `d,S`, opcode $A3 (R170). -/
def execLdaSr (d : Byte) (s : State) : Result := .next (s.opLda (.mem (.sr d)))

/-- LDY `d`, opcode $A4 (R172). -/
def execLdyDp (d : Byte) (s : State) : Result := .next (s.opLdy (.mem (.dp d)))

/-- LDA `d`, opcode $A5 (R170). -/
def execLdaDp (d : Byte) (s : State) : Result := .next (s.opLda (.mem (.dp d)))

/-- LDX `d`, opcode $A6 (R171). -/
def execLdxDp (d : Byte) (s : State) : Result := .next (s.opLdx (.mem (.dp d)))

/-- LDA `[d]`, opcode $A7 (R170). -/
def execLdaDpIndLong (d : Byte) (s : State) : Result := .next (s.opLda (.mem (.dpIndLong d)))

/-- LDA `#`, opcode $A9 (R170). -/
def execLdaImm (v : Word) (s : State) : Result := .next (s.opLda (.imm v))

/-- LDY `a`, opcode $AC (R172). -/
def execLdyAbs (a : Word) (s : State) : Result := .next (s.opLdy (.mem (.abs a)))

/-- LDA `a`, opcode $AD (R170). -/
def execLdaAbs (a : Word) (s : State) : Result := .next (s.opLda (.mem (.abs a)))

/-- LDX `a`, opcode $AE (R171). -/
def execLdxAbs (a : Word) (s : State) : Result := .next (s.opLdx (.mem (.abs a)))

/-- LDA `al`, opcode $AF (R170). -/
def execLdaLong (a : Addr) (s : State) : Result := .next (s.opLda (.mem (.long a)))

/-- LDA `(d),Y`, opcode $B1 (R170). -/
def execLdaDpIndY (d : Byte) (s : State) : Result := .next (s.opLda (.mem (.dpIndY d)))

/-- LDA `(d)`, opcode $B2 (R170). -/
def execLdaDpInd (d : Byte) (s : State) : Result := .next (s.opLda (.mem (.dpInd d)))

/-- LDA `(d,S),Y`, opcode $B3 (R170). -/
def execLdaSrIndY (d : Byte) (s : State) : Result := .next (s.opLda (.mem (.srIndY d)))

/-- LDY `d,X`, opcode $B4 (R172). -/
def execLdyDpX (d : Byte) (s : State) : Result := .next (s.opLdy (.mem (.dpX d)))

/-- LDA `d,X`, opcode $B5 (R170). -/
def execLdaDpX (d : Byte) (s : State) : Result := .next (s.opLda (.mem (.dpX d)))

/-- LDX `d,Y`, opcode $B6 (R171). -/
def execLdxDpY (d : Byte) (s : State) : Result := .next (s.opLdx (.mem (.dpY d)))

/-- LDA `[d],Y`, opcode $B7 (R170). -/
def execLdaDpIndLongY (d : Byte) (s : State) : Result := .next (s.opLda (.mem (.dpIndLongY d)))

/-- LDA `a,Y`, opcode $B9 (R170). -/
def execLdaAbsY (a : Word) (s : State) : Result := .next (s.opLda (.mem (.absY a)))

/-- LDY `a,X`, opcode $BC (R172). -/
def execLdyAbsX (a : Word) (s : State) : Result := .next (s.opLdy (.mem (.absX a)))

/-- LDA `a,X`, opcode $BD (R170). -/
def execLdaAbsX (a : Word) (s : State) : Result := .next (s.opLda (.mem (.absX a)))

/-- LDX `a,Y`, opcode $BE (R171). -/
def execLdxAbsY (a : Word) (s : State) : Result := .next (s.opLdx (.mem (.absY a)))

/-- LDA `al,X`, opcode $BF (R170). -/
def execLdaLongX (a : Addr) (s : State) : Result := .next (s.opLda (.mem (.longX a)))

end Sys2Proof.Machine
end

