-- ==== Sys2Proof/Machine/Logic.lean ====
section
/-! DEFINITION. The meanings of AND ORA EOR BIT TRB TSB ASL LSR ROL ROR (file 44, R250 to R260): the shared operation of each
mnemonic, then one meaning per opcode. -/

namespace Sys2Proof.Machine

/-- `Acc <- Acc op M; SetNZ(Acc, wA)`, the shape of AND, ORA, EOR (file 44, section 2). -/
def State.logic (op : Word → Word → Word) (src : Source) (s : State) : State :=
  let r := src.read s.wA s
  let v := op (s.acc s.wA) r.1
  ((r.2.setAcc s.wA v).setNZ s.wA v).advance (src.length s.wA)

/-- AND (R250). -/
def State.opAnd (src : Source) (s : State) : State := s.logic (fun a m => a &&& m) src

/-- ORA (R251). -/
def State.opOra (src : Source) (s : State) : State := s.logic (fun a m => a ||| m) src

/-- EOR (R252). -/
def State.opEor (src : Source) (s : State) : State := s.logic (fun a m => a ^^^ m) src

/-- The immediate form of a source. -/
def Source.isImm : Source → Bool
  | .imm _ => true
  | .mem _ => false

/-- BIT (R253): Z from `Acc and M`; the memory forms also take N and V from the operand's two top bits. -/
def State.opBit (src : Source) (s : State) : State :=
  let r := src.read s.wA s
  let t := r.2.setFlag .z (s.acc s.wA &&& r.1 == 0)
  ((t.setFlagIf (!src.isImm) .n (msb s.wA r.1)).setFlagIf (!src.isImm) .v (msb2 s.wA r.1)).advance (src.length s.wA)

/-- TRB (R254). -/
def State.opTrb (m : Mode) (s : State) : State :=
  let r := (Place.mem m).modify s.wA (fun v => v &&& ~~~(s.acc s.wA)) s
  (r.2.setFlag .z (s.acc s.wA &&& r.1 == 0)).advance m.length

/-- TSB (R255). -/
def State.opTsb (m : Mode) (s : State) : State :=
  let r := (Place.mem m).modify s.wA (fun v => v ||| s.acc s.wA) s
  (r.2.setFlag .z (s.acc s.wA &&& r.1 == 0)).advance m.length

/-- A shift or rotate (file 44, section 4): `f` gives the new value and the new `P.c`. -/
def State.shift (f : Width → Bool → Word → Shifted) (p : Place) (s : State) : State :=
  let r := p.modify s.wA (fun v => (f s.wA (s.flag .c) v).value) s
  let out := f s.wA (s.flag .c) r.1
  ((r.2.setFlag .c out.carry).setNZ s.wA out.value).advance p.length

/-- ASL (R256). -/
def State.opAsl (p : Place) (s : State) : State := s.shift aslValue p

/-- LSR (R257). -/
def State.opLsr (p : Place) (s : State) : State := s.shift lsrValue p

/-- ROL (R258). -/
def State.opRol (p : Place) (s : State) : State := s.shift rolValue p

/-- ROR (R259). -/
def State.opRor (p : Place) (s : State) : State := s.shift rorValue p

/-- ORA `(d,X)`, opcode $01 (R251). -/
def execOraDpIndX (d : Byte) (s : State) : Result := .next (s.opOra (.mem (.dpIndX d)))

/-- ORA `d,S`, opcode $03 (R251). -/
def execOraSr (d : Byte) (s : State) : Result := .next (s.opOra (.mem (.sr d)))

/-- TSB `d`, opcode $04 (R255). -/
def execTsbDp (d : Byte) (s : State) : Result := .next (s.opTsb (.dp d))

/-- ORA `d`, opcode $05 (R251). -/
def execOraDp (d : Byte) (s : State) : Result := .next (s.opOra (.mem (.dp d)))

/-- ASL `d`, opcode $06 (R256). -/
def execAslDp (d : Byte) (s : State) : Result := .next (s.opAsl (.mem (.dp d)))

/-- ORA `[d]`, opcode $07 (R251). -/
def execOraDpIndLong (d : Byte) (s : State) : Result := .next (s.opOra (.mem (.dpIndLong d)))

/-- ORA `#`, opcode $09 (R251). -/
def execOraImm (v : Word) (s : State) : Result := .next (s.opOra (.imm v))

/-- ASL `A`, opcode $0A (R256). -/
def execAslAcc (s : State) : Result := .next (s.opAsl .acc)

/-- TSB `a`, opcode $0C (R255). -/
def execTsbAbs (a : Word) (s : State) : Result := .next (s.opTsb (.abs a))

/-- ORA `a`, opcode $0D (R251). -/
def execOraAbs (a : Word) (s : State) : Result := .next (s.opOra (.mem (.abs a)))

/-- ASL `a`, opcode $0E (R256). -/
def execAslAbs (a : Word) (s : State) : Result := .next (s.opAsl (.mem (.abs a)))

/-- ORA `al`, opcode $0F (R251). -/
def execOraLong (a : Addr) (s : State) : Result := .next (s.opOra (.mem (.long a)))

/-- ORA `(d),Y`, opcode $11 (R251). -/
def execOraDpIndY (d : Byte) (s : State) : Result := .next (s.opOra (.mem (.dpIndY d)))

/-- ORA `(d)`, opcode $12 (R251). -/
def execOraDpInd (d : Byte) (s : State) : Result := .next (s.opOra (.mem (.dpInd d)))

/-- ORA `(d,S),Y`, opcode $13 (R251). -/
def execOraSrIndY (d : Byte) (s : State) : Result := .next (s.opOra (.mem (.srIndY d)))

/-- TRB `d`, opcode $14 (R254). -/
def execTrbDp (d : Byte) (s : State) : Result := .next (s.opTrb (.dp d))

/-- ORA `d,X`, opcode $15 (R251). -/
def execOraDpX (d : Byte) (s : State) : Result := .next (s.opOra (.mem (.dpX d)))

/-- ASL `d,X`, opcode $16 (R256). -/
def execAslDpX (d : Byte) (s : State) : Result := .next (s.opAsl (.mem (.dpX d)))

/-- ORA `[d],Y`, opcode $17 (R251). -/
def execOraDpIndLongY (d : Byte) (s : State) : Result := .next (s.opOra (.mem (.dpIndLongY d)))

/-- ORA `a,Y`, opcode $19 (R251). -/
def execOraAbsY (a : Word) (s : State) : Result := .next (s.opOra (.mem (.absY a)))

/-- TRB `a`, opcode $1C (R254). -/
def execTrbAbs (a : Word) (s : State) : Result := .next (s.opTrb (.abs a))

/-- ORA `a,X`, opcode $1D (R251). -/
def execOraAbsX (a : Word) (s : State) : Result := .next (s.opOra (.mem (.absX a)))

/-- ASL `a,X`, opcode $1E (R256). -/
def execAslAbsX (a : Word) (s : State) : Result := .next (s.opAsl (.mem (.absX a)))

/-- ORA `al,X`, opcode $1F (R251). -/
def execOraLongX (a : Addr) (s : State) : Result := .next (s.opOra (.mem (.longX a)))

/-- AND `(d,X)`, opcode $21 (R250). -/
def execAndDpIndX (d : Byte) (s : State) : Result := .next (s.opAnd (.mem (.dpIndX d)))

/-- AND `d,S`, opcode $23 (R250). -/
def execAndSr (d : Byte) (s : State) : Result := .next (s.opAnd (.mem (.sr d)))

/-- BIT `d`, opcode $24 (R253). -/
def execBitDp (d : Byte) (s : State) : Result := .next (s.opBit (.mem (.dp d)))

/-- AND `d`, opcode $25 (R250). -/
def execAndDp (d : Byte) (s : State) : Result := .next (s.opAnd (.mem (.dp d)))

/-- ROL `d`, opcode $26 (R258). -/
def execRolDp (d : Byte) (s : State) : Result := .next (s.opRol (.mem (.dp d)))

/-- AND `[d]`, opcode $27 (R250). -/
def execAndDpIndLong (d : Byte) (s : State) : Result := .next (s.opAnd (.mem (.dpIndLong d)))

/-- AND `#`, opcode $29 (R250). -/
def execAndImm (v : Word) (s : State) : Result := .next (s.opAnd (.imm v))

/-- ROL `A`, opcode $2A (R258). -/
def execRolAcc (s : State) : Result := .next (s.opRol .acc)

/-- BIT `a`, opcode $2C (R253). -/
def execBitAbs (a : Word) (s : State) : Result := .next (s.opBit (.mem (.abs a)))

/-- AND `a`, opcode $2D (R250). -/
def execAndAbs (a : Word) (s : State) : Result := .next (s.opAnd (.mem (.abs a)))

/-- ROL `a`, opcode $2E (R258). -/
def execRolAbs (a : Word) (s : State) : Result := .next (s.opRol (.mem (.abs a)))

/-- AND `al`, opcode $2F (R250). -/
def execAndLong (a : Addr) (s : State) : Result := .next (s.opAnd (.mem (.long a)))

/-- AND `(d),Y`, opcode $31 (R250). -/
def execAndDpIndY (d : Byte) (s : State) : Result := .next (s.opAnd (.mem (.dpIndY d)))

/-- AND `(d)`, opcode $32 (R250). -/
def execAndDpInd (d : Byte) (s : State) : Result := .next (s.opAnd (.mem (.dpInd d)))

/-- AND `(d,S),Y`, opcode $33 (R250). -/
def execAndSrIndY (d : Byte) (s : State) : Result := .next (s.opAnd (.mem (.srIndY d)))

/-- BIT `d,X`, opcode $34 (R253). -/
def execBitDpX (d : Byte) (s : State) : Result := .next (s.opBit (.mem (.dpX d)))

/-- AND `d,X`, opcode $35 (R250). -/
def execAndDpX (d : Byte) (s : State) : Result := .next (s.opAnd (.mem (.dpX d)))

/-- ROL `d,X`, opcode $36 (R258). -/
def execRolDpX (d : Byte) (s : State) : Result := .next (s.opRol (.mem (.dpX d)))

/-- AND `[d],Y`, opcode $37 (R250). -/
def execAndDpIndLongY (d : Byte) (s : State) : Result := .next (s.opAnd (.mem (.dpIndLongY d)))

/-- AND `a,Y`, opcode $39 (R250). -/
def execAndAbsY (a : Word) (s : State) : Result := .next (s.opAnd (.mem (.absY a)))

/-- BIT `a,X`, opcode $3C (R253). -/
def execBitAbsX (a : Word) (s : State) : Result := .next (s.opBit (.mem (.absX a)))

/-- AND `a,X`, opcode $3D (R250). -/
def execAndAbsX (a : Word) (s : State) : Result := .next (s.opAnd (.mem (.absX a)))

/-- ROL `a,X`, opcode $3E (R258). -/
def execRolAbsX (a : Word) (s : State) : Result := .next (s.opRol (.mem (.absX a)))

/-- AND `al,X`, opcode $3F (R250). -/
def execAndLongX (a : Addr) (s : State) : Result := .next (s.opAnd (.mem (.longX a)))

/-- EOR `(d,X)`, opcode $41 (R252). -/
def execEorDpIndX (d : Byte) (s : State) : Result := .next (s.opEor (.mem (.dpIndX d)))

/-- EOR `d,S`, opcode $43 (R252). -/
def execEorSr (d : Byte) (s : State) : Result := .next (s.opEor (.mem (.sr d)))

/-- EOR `d`, opcode $45 (R252). -/
def execEorDp (d : Byte) (s : State) : Result := .next (s.opEor (.mem (.dp d)))

/-- LSR `d`, opcode $46 (R257). -/
def execLsrDp (d : Byte) (s : State) : Result := .next (s.opLsr (.mem (.dp d)))

/-- EOR `[d]`, opcode $47 (R252). -/
def execEorDpIndLong (d : Byte) (s : State) : Result := .next (s.opEor (.mem (.dpIndLong d)))

/-- EOR `#`, opcode $49 (R252). -/
def execEorImm (v : Word) (s : State) : Result := .next (s.opEor (.imm v))

/-- LSR `A`, opcode $4A (R257). -/
def execLsrAcc (s : State) : Result := .next (s.opLsr .acc)

/-- EOR `a`, opcode $4D (R252). -/
def execEorAbs (a : Word) (s : State) : Result := .next (s.opEor (.mem (.abs a)))

/-- LSR `a`, opcode $4E (R257). -/
def execLsrAbs (a : Word) (s : State) : Result := .next (s.opLsr (.mem (.abs a)))

/-- EOR `al`, opcode $4F (R252). -/
def execEorLong (a : Addr) (s : State) : Result := .next (s.opEor (.mem (.long a)))

/-- EOR `(d),Y`, opcode $51 (R252). -/
def execEorDpIndY (d : Byte) (s : State) : Result := .next (s.opEor (.mem (.dpIndY d)))

/-- EOR `(d)`, opcode $52 (R252). -/
def execEorDpInd (d : Byte) (s : State) : Result := .next (s.opEor (.mem (.dpInd d)))

/-- EOR `(d,S),Y`, opcode $53 (R252). -/
def execEorSrIndY (d : Byte) (s : State) : Result := .next (s.opEor (.mem (.srIndY d)))

/-- EOR `d,X`, opcode $55 (R252). -/
def execEorDpX (d : Byte) (s : State) : Result := .next (s.opEor (.mem (.dpX d)))

/-- LSR `d,X`, opcode $56 (R257). -/
def execLsrDpX (d : Byte) (s : State) : Result := .next (s.opLsr (.mem (.dpX d)))

/-- EOR `[d],Y`, opcode $57 (R252). -/
def execEorDpIndLongY (d : Byte) (s : State) : Result := .next (s.opEor (.mem (.dpIndLongY d)))

/-- EOR `a,Y`, opcode $59 (R252). -/
def execEorAbsY (a : Word) (s : State) : Result := .next (s.opEor (.mem (.absY a)))

/-- EOR `a,X`, opcode $5D (R252). -/
def execEorAbsX (a : Word) (s : State) : Result := .next (s.opEor (.mem (.absX a)))

/-- LSR `a,X`, opcode $5E (R257). -/
def execLsrAbsX (a : Word) (s : State) : Result := .next (s.opLsr (.mem (.absX a)))

/-- EOR `al,X`, opcode $5F (R252). -/
def execEorLongX (a : Addr) (s : State) : Result := .next (s.opEor (.mem (.longX a)))

/-- ROR `d`, opcode $66 (R259). -/
def execRorDp (d : Byte) (s : State) : Result := .next (s.opRor (.mem (.dp d)))

/-- ROR `A`, opcode $6A (R259). -/
def execRorAcc (s : State) : Result := .next (s.opRor .acc)

/-- ROR `a`, opcode $6E (R259). -/
def execRorAbs (a : Word) (s : State) : Result := .next (s.opRor (.mem (.abs a)))

/-- ROR `d,X`, opcode $76 (R259). -/
def execRorDpX (d : Byte) (s : State) : Result := .next (s.opRor (.mem (.dpX d)))

/-- ROR `a,X`, opcode $7E (R259). -/
def execRorAbsX (a : Word) (s : State) : Result := .next (s.opRor (.mem (.absX a)))

/-- BIT `#`, opcode $89 (R253). -/
def execBitImm (v : Word) (s : State) : Result := .next (s.opBit (.imm v))

end Sys2Proof.Machine
end

