-- ==== Sys2Proof/Machine/Stack.lean ====
section
/-! DEFINITION. The meanings of PHA PHX PHY PHB PHD PHK PHP PLA PLX PLY PLB PLD PLP PEA PEI PER (file 42, R200 to R215): the shared operation of each
mnemonic, then one meaning per opcode. -/

namespace Sys2Proof.Machine

/-- A push of a register at width `w`: one byte or two (R200 to R202). -/
def State.pushW (w : Width) (v : Word) (s : State) : State :=
  match w with
  | .w8 => s.push8 (lo8 v)
  | .w16 => s.push16 v

/-- A pull at width `w` (R207 to R209). -/
def State.pullW (w : Width) (s : State) : Word × State :=
  match w with
  | .w8 => let b := s.pull8; (zext16 b.1, b.2)
  | .w16 => s.pull16

/-- PHA (R200). -/
def State.opPha (s : State) : State := (s.pushW s.wA s.c).advance 1

/-- PHX (R201). -/
def State.opPhx (s : State) : State := (s.pushW s.wX s.x).advance 1

/-- PHY (R202). -/
def State.opPhy (s : State) : State := (s.pushW s.wX s.y).advance 1

/-- PHB (R203). -/
def State.opPhb (s : State) : State := (s.push8 s.dbr).advance 1

/-- PHD (R204), with the 16-bit stack arithmetic of R69 in emulation mode. -/
def State.opPhd (s : State) : State := ((s.push16N s.d).fixStackPage).advance 1

/-- PHK (R205). -/
def State.opPhk (s : State) : State := (s.push8 s.pbr).advance 1

/-- PHP (R206). -/
def State.opPhp (s : State) : State := (s.push8 s.p).advance 1

/-- PLA (R207): `B` unchanged at 8 bits. -/
def State.opPla (s : State) : State :=
  let r := s.pullW s.wA
  ((r.2.setAcc s.wA r.1).setNZ s.wA r.1).advance 1

/-- PLX (R208). -/
def State.opPlx (s : State) : State :=
  let r := s.pullW s.wX
  ((r.2.setX r.1).setNZ s.wX r.1).advance 1

/-- PLY (R209). -/
def State.opPly (s : State) : State :=
  let r := s.pullW s.wX
  ((r.2.setY r.1).setNZ s.wX r.1).advance 1

/-- PLB (R210), with the 16-bit stack arithmetic of R69, R70 in emulation mode (log 14). -/
def State.opPlb (s : State) : State :=
  let r := s.pull8N
  (((r.2.setDbr r.1).setNZ .w8 (zext16 r.1)).fixStackPage).advance 1

/-- PLD (R211), with the 16-bit stack arithmetic of R70 in emulation mode. -/
def State.opPld (s : State) : State :=
  let r := s.pull16N
  (((r.2.setD r.1).setNZ .w16 r.1).fixStackPage).advance 1

/-- PLP (R212): all of `P`, then `Normalize()`. -/
def State.opPlp (s : State) : State :=
  let r := s.pull8
  ((r.2.setP r.1).normalize).advance 1

/-- PEA (R213). -/
def State.opPea (v : Word) (s : State) : State := ((s.push16N v).fixStackPage).advance 3

/-- PEI (R214): the pointer fetch never wraps in the page. -/
def State.opPei (d : Byte) (s : State) : State :=
  let p := s.read16 (s.directNoWrap d)
  ((p.2.push16N p.1).fixStackPage).advance 2

/-- PER (R215): relative to the next instruction. -/
def State.opPer (disp : Word) (s : State) : State := ((s.push16N (s.pc + 3 + disp)).fixStackPage).advance 3

/-- PHP, opcode $08 (R206). -/
def execPhp (s : State) : Result := .next (s.opPhp)

/-- PHD, opcode $0B (R204). -/
def execPhd (s : State) : Result := .next (s.opPhd)

/-- PLP, opcode $28 (R212). -/
def execPlp (s : State) : Result := .next (s.opPlp)

/-- PLD, opcode $2B (R211). -/
def execPld (s : State) : Result := .next (s.opPld)

/-- PHA, opcode $48 (R200). -/
def execPha (s : State) : Result := .next (s.opPha)

/-- PHK, opcode $4B (R205). -/
def execPhk (s : State) : Result := .next (s.opPhk)

/-- PHY, opcode $5A (R202). -/
def execPhy (s : State) : Result := .next (s.opPhy)

/-- PER, opcode $62 (R215). -/
def execPer (disp : Word) (s : State) : Result := .next (s.opPer disp)

/-- PLA, opcode $68 (R207). -/
def execPla (s : State) : Result := .next (s.opPla)

/-- PLY, opcode $7A (R209). -/
def execPly (s : State) : Result := .next (s.opPly)

/-- PHB, opcode $8B (R203). -/
def execPhb (s : State) : Result := .next (s.opPhb)

/-- PLB, opcode $AB (R210). -/
def execPlb (s : State) : Result := .next (s.opPlb)

/-- PEI, opcode $D4 (R214). -/
def execPei (d : Byte) (s : State) : Result := .next (s.opPei d)

/-- PHX, opcode $DA (R201). -/
def execPhx (s : State) : Result := .next (s.opPhx)

/-- PEA, opcode $F4 (R213). -/
def execPea (v : Word) (s : State) : Result := .next (s.opPea v)

/-- PLX, opcode $FA (R208). -/
def execPlx (s : State) : Result := .next (s.opPlx)

end Sys2Proof.Machine
end

