-- ==== Sys2Proof/Machine/Transfer.lean ====
section
/-! DEFINITION. The meanings of TAX TAY TXA TYA TXY TYX TCD TDC TCS TSC TXS TSX (file 41, R177 to R188): the shared operation of each
mnemonic, then one meaning per opcode. -/

namespace Sys2Proof.Machine

/-- TAX (R177): all of `C` when `wX = 16`, even if `P.m = 1`. -/
def State.opTax (s : State) : State := ((s.setX (trunc s.wX s.c)).setNZ s.wX s.c).advance 1

/-- TAY (R178). -/
def State.opTay (s : State) : State := ((s.setY (trunc s.wX s.c)).setNZ s.wX s.c).advance 1

/-- TXA (R179): the width is that of the accumulator. -/
def State.opTxa (s : State) : State := ((s.setAcc s.wA s.x).setNZ s.wA s.x).advance 1

/-- TYA (R180). -/
def State.opTya (s : State) : State := ((s.setAcc s.wA s.y).setNZ s.wA s.y).advance 1

/-- TXY (R181). -/
def State.opTxy (s : State) : State := ((s.setY s.x).setNZ s.wX s.x).advance 1

/-- TYX (R182). -/
def State.opTyx (s : State) : State := ((s.setX s.y).setNZ s.wX s.y).advance 1

/-- TCD (R183): always 16 bits. -/
def State.opTcd (s : State) : State := ((s.setD s.c).setNZ .w16 s.c).advance 1

/-- TDC (R184): always 16 bits. -/
def State.opTdc (s : State) : State := ((s.setC s.d).setNZ .w16 s.d).advance 1

/-- TCS (R185): only `SL` in emulation mode; no flag. -/
def State.opTcs (s : State) : State := (s.setSp (if s.e then join16 1 (lo8 s.c) else s.c)).advance 1

/-- TSC (R186): always 16 bits. -/
def State.opTsc (s : State) : State := ((s.setC s.sp).setNZ .w16 s.sp).advance 1

/-- TXS (R187): only `SL` in emulation mode; no flag. -/
def State.opTxs (s : State) : State := (s.setSp (if s.e then join16 1 (lo8 s.x) else s.x)).advance 1

/-- TSX (R188). -/
def State.opTsx (s : State) : State := ((s.setX (trunc s.wX s.sp)).setNZ s.wX s.sp).advance 1

/-- TCS, opcode $1B (R185). -/
def execTcs (s : State) : Result := .next (s.opTcs)

/-- TSC, opcode $3B (R186). -/
def execTsc (s : State) : Result := .next (s.opTsc)

/-- TCD, opcode $5B (R183). -/
def execTcd (s : State) : Result := .next (s.opTcd)

/-- TDC, opcode $7B (R184). -/
def execTdc (s : State) : Result := .next (s.opTdc)

/-- TXA, opcode $8A (R179). -/
def execTxa (s : State) : Result := .next (s.opTxa)

/-- TYA, opcode $98 (R180). -/
def execTya (s : State) : Result := .next (s.opTya)

/-- TXS, opcode $9A (R187). -/
def execTxs (s : State) : Result := .next (s.opTxs)

/-- TXY, opcode $9B (R181). -/
def execTxy (s : State) : Result := .next (s.opTxy)

/-- TAY, opcode $A8 (R178). -/
def execTay (s : State) : Result := .next (s.opTay)

/-- TAX, opcode $AA (R177). -/
def execTax (s : State) : Result := .next (s.opTax)

/-- TSX, opcode $BA (R188). -/
def execTsx (s : State) : Result := .next (s.opTsx)

/-- TYX, opcode $BB (R182). -/
def execTyx (s : State) : Result := .next (s.opTyx)

end Sys2Proof.Machine
end

