-- ==== Sys2Proof/Machine/Step.lean ====
section
/-! DEFINITION. One step of the processor (R381), and how the host places an instruction for the next step. -/

namespace Sys2Proof.Machine

/-- `Step()` (R381): the environment is sampled, then reset, nothing, an interrupt entry, waiting, or one instruction. -/
def step (s : State) : Host.Outcome State Fault Refusal :=
  match s.sample.action s.resetRequested with
  | .reset => .next s.sample.resetMachine
  | .nothing => .next s.sample
  | .nmi => .next s.sample.takeNmi
  | .irq => .next s.sample.takeIrq
  | .idle => .next s.sample.idle
  | .fetch => exec s.sample.fetch.1 s.sample.fetch.2

/-- The state whose next step fetches and runs the instruction with bits `w` (log 25). -/
def State.withFetchWord (s : State) (nbits w : Nat) : State :=
  (s.readyToFetch.fetchFromMemory).placeBytes 0 (wordBytes nbits w)

end Sys2Proof.Machine
end

