-- ==== Sys2Proof/Machine/Forms.lean ====
section
/-! DEFINITION. The words statements are made of: which instruction a mnemonic is with a given operand form (the encoding lines of files
41 to 47), and what it means that memory, flags or the platform are left alone. -/

namespace Sys2Proof.Machine

/-- LDA with an operand form it has, by the encoding line of R170. -/
def ldaOf : Source → Option Instr
  | .imm v => some (.ldaImm v)
  | .mem (.dp d) => some (.ldaDp d)
  | .mem (.dpX d) => some (.ldaDpX d)
  | .mem (.dpY _) => none
  | .mem (.dpInd d) => some (.ldaDpInd d)
  | .mem (.dpIndX d) => some (.ldaDpIndX d)
  | .mem (.dpIndY d) => some (.ldaDpIndY d)
  | .mem (.dpIndLong d) => some (.ldaDpIndLong d)
  | .mem (.dpIndLongY d) => some (.ldaDpIndLongY d)
  | .mem (.sr d) => some (.ldaSr d)
  | .mem (.srIndY d) => some (.ldaSrIndY d)
  | .mem (.abs a) => some (.ldaAbs a)
  | .mem (.absX a) => some (.ldaAbsX a)
  | .mem (.absY a) => some (.ldaAbsY a)
  | .mem (.long a) => some (.ldaLong a)
  | .mem (.longX a) => some (.ldaLongX a)

/-- LDX with an operand form it has, by the encoding line of R171. -/
def ldxOf : Source → Option Instr
  | .imm v => some (.ldxImm v)
  | .mem (.dp d) => some (.ldxDp d)
  | .mem (.dpX _) => none
  | .mem (.dpY d) => some (.ldxDpY d)
  | .mem (.dpInd _) => none
  | .mem (.dpIndX _) => none
  | .mem (.dpIndY _) => none
  | .mem (.dpIndLong _) => none
  | .mem (.dpIndLongY _) => none
  | .mem (.sr _) => none
  | .mem (.srIndY _) => none
  | .mem (.abs a) => some (.ldxAbs a)
  | .mem (.absX _) => none
  | .mem (.absY a) => some (.ldxAbsY a)
  | .mem (.long _) => none
  | .mem (.longX _) => none

/-- LDY with an operand form it has, by the encoding line of R172. -/
def ldyOf : Source → Option Instr
  | .imm v => some (.ldyImm v)
  | .mem (.dp d) => some (.ldyDp d)
  | .mem (.dpX d) => some (.ldyDpX d)
  | .mem (.dpY _) => none
  | .mem (.dpInd _) => none
  | .mem (.dpIndX _) => none
  | .mem (.dpIndY _) => none
  | .mem (.dpIndLong _) => none
  | .mem (.dpIndLongY _) => none
  | .mem (.sr _) => none
  | .mem (.srIndY _) => none
  | .mem (.abs a) => some (.ldyAbs a)
  | .mem (.absX a) => some (.ldyAbsX a)
  | .mem (.absY _) => none
  | .mem (.long _) => none
  | .mem (.longX _) => none

/-- STA with an operand form it has, by the encoding line of R173. -/
def staOf : Mode → Option Instr
  | .dp d => some (.staDp d)
  | .dpX d => some (.staDpX d)
  | .dpY _ => none
  | .dpInd d => some (.staDpInd d)
  | .dpIndX d => some (.staDpIndX d)
  | .dpIndY d => some (.staDpIndY d)
  | .dpIndLong d => some (.staDpIndLong d)
  | .dpIndLongY d => some (.staDpIndLongY d)
  | .sr d => some (.staSr d)
  | .srIndY d => some (.staSrIndY d)
  | .abs a => some (.staAbs a)
  | .absX a => some (.staAbsX a)
  | .absY a => some (.staAbsY a)
  | .long a => some (.staLong a)
  | .longX a => some (.staLongX a)

/-- STX with an operand form it has, by the encoding line of R174. -/
def stxOf : Mode → Option Instr
  | .dp d => some (.stxDp d)
  | .dpX _ => none
  | .dpY d => some (.stxDpY d)
  | .dpInd _ => none
  | .dpIndX _ => none
  | .dpIndY _ => none
  | .dpIndLong _ => none
  | .dpIndLongY _ => none
  | .sr _ => none
  | .srIndY _ => none
  | .abs a => some (.stxAbs a)
  | .absX _ => none
  | .absY _ => none
  | .long _ => none
  | .longX _ => none

/-- STY with an operand form it has, by the encoding line of R175. -/
def styOf : Mode → Option Instr
  | .dp d => some (.styDp d)
  | .dpX d => some (.styDpX d)
  | .dpY _ => none
  | .dpInd _ => none
  | .dpIndX _ => none
  | .dpIndY _ => none
  | .dpIndLong _ => none
  | .dpIndLongY _ => none
  | .sr _ => none
  | .srIndY _ => none
  | .abs a => some (.styAbs a)
  | .absX _ => none
  | .absY _ => none
  | .long _ => none
  | .longX _ => none

/-- STZ with an operand form it has, by the encoding line of R176. -/
def stzOf : Mode → Option Instr
  | .dp d => some (.stzDp d)
  | .dpX d => some (.stzDpX d)
  | .dpY _ => none
  | .dpInd _ => none
  | .dpIndX _ => none
  | .dpIndY _ => none
  | .dpIndLong _ => none
  | .dpIndLongY _ => none
  | .sr _ => none
  | .srIndY _ => none
  | .abs a => some (.stzAbs a)
  | .absX a => some (.stzAbsX a)
  | .absY _ => none
  | .long _ => none
  | .longX _ => none

/-- ADC with an operand form it has, by the encoding line of R230. -/
def adcOf : Source → Option Instr
  | .imm v => some (.adcImm v)
  | .mem (.dp d) => some (.adcDp d)
  | .mem (.dpX d) => some (.adcDpX d)
  | .mem (.dpY _) => none
  | .mem (.dpInd d) => some (.adcDpInd d)
  | .mem (.dpIndX d) => some (.adcDpIndX d)
  | .mem (.dpIndY d) => some (.adcDpIndY d)
  | .mem (.dpIndLong d) => some (.adcDpIndLong d)
  | .mem (.dpIndLongY d) => some (.adcDpIndLongY d)
  | .mem (.sr d) => some (.adcSr d)
  | .mem (.srIndY d) => some (.adcSrIndY d)
  | .mem (.abs a) => some (.adcAbs a)
  | .mem (.absX a) => some (.adcAbsX a)
  | .mem (.absY a) => some (.adcAbsY a)
  | .mem (.long a) => some (.adcLong a)
  | .mem (.longX a) => some (.adcLongX a)

/-- SBC with an operand form it has, by the encoding line of R231. -/
def sbcOf : Source → Option Instr
  | .imm v => some (.sbcImm v)
  | .mem (.dp d) => some (.sbcDp d)
  | .mem (.dpX d) => some (.sbcDpX d)
  | .mem (.dpY _) => none
  | .mem (.dpInd d) => some (.sbcDpInd d)
  | .mem (.dpIndX d) => some (.sbcDpIndX d)
  | .mem (.dpIndY d) => some (.sbcDpIndY d)
  | .mem (.dpIndLong d) => some (.sbcDpIndLong d)
  | .mem (.dpIndLongY d) => some (.sbcDpIndLongY d)
  | .mem (.sr d) => some (.sbcSr d)
  | .mem (.srIndY d) => some (.sbcSrIndY d)
  | .mem (.abs a) => some (.sbcAbs a)
  | .mem (.absX a) => some (.sbcAbsX a)
  | .mem (.absY a) => some (.sbcAbsY a)
  | .mem (.long a) => some (.sbcLong a)
  | .mem (.longX a) => some (.sbcLongX a)

/-- INC with an operand form it has, by the encoding line of R234. -/
def incOf : Place → Option Instr
  | .acc => some .incAcc
  | .mem (.dp d) => some (.incDp d)
  | .mem (.dpX d) => some (.incDpX d)
  | .mem (.dpY _) => none
  | .mem (.dpInd _) => none
  | .mem (.dpIndX _) => none
  | .mem (.dpIndY _) => none
  | .mem (.dpIndLong _) => none
  | .mem (.dpIndLongY _) => none
  | .mem (.sr _) => none
  | .mem (.srIndY _) => none
  | .mem (.abs a) => some (.incAbs a)
  | .mem (.absX a) => some (.incAbsX a)
  | .mem (.absY _) => none
  | .mem (.long _) => none
  | .mem (.longX _) => none

/-- DEC with an operand form it has, by the encoding line of R237. -/
def decOf : Place → Option Instr
  | .acc => some .decAcc
  | .mem (.dp d) => some (.decDp d)
  | .mem (.dpX d) => some (.decDpX d)
  | .mem (.dpY _) => none
  | .mem (.dpInd _) => none
  | .mem (.dpIndX _) => none
  | .mem (.dpIndY _) => none
  | .mem (.dpIndLong _) => none
  | .mem (.dpIndLongY _) => none
  | .mem (.sr _) => none
  | .mem (.srIndY _) => none
  | .mem (.abs a) => some (.decAbs a)
  | .mem (.absX a) => some (.decAbsX a)
  | .mem (.absY _) => none
  | .mem (.long _) => none
  | .mem (.longX _) => none

/-- AND with an operand form it has, by the encoding line of R250. -/
def andOf : Source → Option Instr
  | .imm v => some (.andImm v)
  | .mem (.dp d) => some (.andDp d)
  | .mem (.dpX d) => some (.andDpX d)
  | .mem (.dpY _) => none
  | .mem (.dpInd d) => some (.andDpInd d)
  | .mem (.dpIndX d) => some (.andDpIndX d)
  | .mem (.dpIndY d) => some (.andDpIndY d)
  | .mem (.dpIndLong d) => some (.andDpIndLong d)
  | .mem (.dpIndLongY d) => some (.andDpIndLongY d)
  | .mem (.sr d) => some (.andSr d)
  | .mem (.srIndY d) => some (.andSrIndY d)
  | .mem (.abs a) => some (.andAbs a)
  | .mem (.absX a) => some (.andAbsX a)
  | .mem (.absY a) => some (.andAbsY a)
  | .mem (.long a) => some (.andLong a)
  | .mem (.longX a) => some (.andLongX a)

/-- ORA with an operand form it has, by the encoding line of R251. -/
def oraOf : Source → Option Instr
  | .imm v => some (.oraImm v)
  | .mem (.dp d) => some (.oraDp d)
  | .mem (.dpX d) => some (.oraDpX d)
  | .mem (.dpY _) => none
  | .mem (.dpInd d) => some (.oraDpInd d)
  | .mem (.dpIndX d) => some (.oraDpIndX d)
  | .mem (.dpIndY d) => some (.oraDpIndY d)
  | .mem (.dpIndLong d) => some (.oraDpIndLong d)
  | .mem (.dpIndLongY d) => some (.oraDpIndLongY d)
  | .mem (.sr d) => some (.oraSr d)
  | .mem (.srIndY d) => some (.oraSrIndY d)
  | .mem (.abs a) => some (.oraAbs a)
  | .mem (.absX a) => some (.oraAbsX a)
  | .mem (.absY a) => some (.oraAbsY a)
  | .mem (.long a) => some (.oraLong a)
  | .mem (.longX a) => some (.oraLongX a)

/-- EOR with an operand form it has, by the encoding line of R252. -/
def eorOf : Source → Option Instr
  | .imm v => some (.eorImm v)
  | .mem (.dp d) => some (.eorDp d)
  | .mem (.dpX d) => some (.eorDpX d)
  | .mem (.dpY _) => none
  | .mem (.dpInd d) => some (.eorDpInd d)
  | .mem (.dpIndX d) => some (.eorDpIndX d)
  | .mem (.dpIndY d) => some (.eorDpIndY d)
  | .mem (.dpIndLong d) => some (.eorDpIndLong d)
  | .mem (.dpIndLongY d) => some (.eorDpIndLongY d)
  | .mem (.sr d) => some (.eorSr d)
  | .mem (.srIndY d) => some (.eorSrIndY d)
  | .mem (.abs a) => some (.eorAbs a)
  | .mem (.absX a) => some (.eorAbsX a)
  | .mem (.absY a) => some (.eorAbsY a)
  | .mem (.long a) => some (.eorLong a)
  | .mem (.longX a) => some (.eorLongX a)

/-- BIT with an operand form it has, by the encoding line of R253. -/
def bitOf : Source → Option Instr
  | .imm v => some (.bitImm v)
  | .mem (.dp d) => some (.bitDp d)
  | .mem (.dpX d) => some (.bitDpX d)
  | .mem (.dpY _) => none
  | .mem (.dpInd _) => none
  | .mem (.dpIndX _) => none
  | .mem (.dpIndY _) => none
  | .mem (.dpIndLong _) => none
  | .mem (.dpIndLongY _) => none
  | .mem (.sr _) => none
  | .mem (.srIndY _) => none
  | .mem (.abs a) => some (.bitAbs a)
  | .mem (.absX a) => some (.bitAbsX a)
  | .mem (.absY _) => none
  | .mem (.long _) => none
  | .mem (.longX _) => none

/-- TRB with an operand form it has, by the encoding line of R254. -/
def trbOf : Mode → Option Instr
  | .dp d => some (.trbDp d)
  | .dpX _ => none
  | .dpY _ => none
  | .dpInd _ => none
  | .dpIndX _ => none
  | .dpIndY _ => none
  | .dpIndLong _ => none
  | .dpIndLongY _ => none
  | .sr _ => none
  | .srIndY _ => none
  | .abs a => some (.trbAbs a)
  | .absX _ => none
  | .absY _ => none
  | .long _ => none
  | .longX _ => none

/-- TSB with an operand form it has, by the encoding line of R255. -/
def tsbOf : Mode → Option Instr
  | .dp d => some (.tsbDp d)
  | .dpX _ => none
  | .dpY _ => none
  | .dpInd _ => none
  | .dpIndX _ => none
  | .dpIndY _ => none
  | .dpIndLong _ => none
  | .dpIndLongY _ => none
  | .sr _ => none
  | .srIndY _ => none
  | .abs a => some (.tsbAbs a)
  | .absX _ => none
  | .absY _ => none
  | .long _ => none
  | .longX _ => none

/-- ASL with an operand form it has, by the encoding line of R256. -/
def aslOf : Place → Option Instr
  | .acc => some .aslAcc
  | .mem (.dp d) => some (.aslDp d)
  | .mem (.dpX d) => some (.aslDpX d)
  | .mem (.dpY _) => none
  | .mem (.dpInd _) => none
  | .mem (.dpIndX _) => none
  | .mem (.dpIndY _) => none
  | .mem (.dpIndLong _) => none
  | .mem (.dpIndLongY _) => none
  | .mem (.sr _) => none
  | .mem (.srIndY _) => none
  | .mem (.abs a) => some (.aslAbs a)
  | .mem (.absX a) => some (.aslAbsX a)
  | .mem (.absY _) => none
  | .mem (.long _) => none
  | .mem (.longX _) => none

/-- LSR with an operand form it has, by the encoding line of R257. -/
def lsrOf : Place → Option Instr
  | .acc => some .lsrAcc
  | .mem (.dp d) => some (.lsrDp d)
  | .mem (.dpX d) => some (.lsrDpX d)
  | .mem (.dpY _) => none
  | .mem (.dpInd _) => none
  | .mem (.dpIndX _) => none
  | .mem (.dpIndY _) => none
  | .mem (.dpIndLong _) => none
  | .mem (.dpIndLongY _) => none
  | .mem (.sr _) => none
  | .mem (.srIndY _) => none
  | .mem (.abs a) => some (.lsrAbs a)
  | .mem (.absX a) => some (.lsrAbsX a)
  | .mem (.absY _) => none
  | .mem (.long _) => none
  | .mem (.longX _) => none

/-- ROL with an operand form it has, by the encoding line of R258. -/
def rolOf : Place → Option Instr
  | .acc => some .rolAcc
  | .mem (.dp d) => some (.rolDp d)
  | .mem (.dpX d) => some (.rolDpX d)
  | .mem (.dpY _) => none
  | .mem (.dpInd _) => none
  | .mem (.dpIndX _) => none
  | .mem (.dpIndY _) => none
  | .mem (.dpIndLong _) => none
  | .mem (.dpIndLongY _) => none
  | .mem (.sr _) => none
  | .mem (.srIndY _) => none
  | .mem (.abs a) => some (.rolAbs a)
  | .mem (.absX a) => some (.rolAbsX a)
  | .mem (.absY _) => none
  | .mem (.long _) => none
  | .mem (.longX _) => none

/-- ROR with an operand form it has, by the encoding line of R259. -/
def rorOf : Place → Option Instr
  | .acc => some .rorAcc
  | .mem (.dp d) => some (.rorDp d)
  | .mem (.dpX d) => some (.rorDpX d)
  | .mem (.dpY _) => none
  | .mem (.dpInd _) => none
  | .mem (.dpIndX _) => none
  | .mem (.dpIndY _) => none
  | .mem (.dpIndLong _) => none
  | .mem (.dpIndLongY _) => none
  | .mem (.sr _) => none
  | .mem (.srIndY _) => none
  | .mem (.abs a) => some (.rorAbs a)
  | .mem (.absX a) => some (.rorAbsX a)
  | .mem (.absY _) => none
  | .mem (.long _) => none
  | .mem (.longX _) => none

/-- CMP with an operand form it has, by the encoding line of R320. -/
def cmpOf : Source → Option Instr
  | .imm v => some (.cmpImm v)
  | .mem (.dp d) => some (.cmpDp d)
  | .mem (.dpX d) => some (.cmpDpX d)
  | .mem (.dpY _) => none
  | .mem (.dpInd d) => some (.cmpDpInd d)
  | .mem (.dpIndX d) => some (.cmpDpIndX d)
  | .mem (.dpIndY d) => some (.cmpDpIndY d)
  | .mem (.dpIndLong d) => some (.cmpDpIndLong d)
  | .mem (.dpIndLongY d) => some (.cmpDpIndLongY d)
  | .mem (.sr d) => some (.cmpSr d)
  | .mem (.srIndY d) => some (.cmpSrIndY d)
  | .mem (.abs a) => some (.cmpAbs a)
  | .mem (.absX a) => some (.cmpAbsX a)
  | .mem (.absY a) => some (.cmpAbsY a)
  | .mem (.long a) => some (.cmpLong a)
  | .mem (.longX a) => some (.cmpLongX a)

/-- CPX with an operand form it has, by the encoding line of R321. -/
def cpxOf : Source → Option Instr
  | .imm v => some (.cpxImm v)
  | .mem (.dp d) => some (.cpxDp d)
  | .mem (.dpX _) => none
  | .mem (.dpY _) => none
  | .mem (.dpInd _) => none
  | .mem (.dpIndX _) => none
  | .mem (.dpIndY _) => none
  | .mem (.dpIndLong _) => none
  | .mem (.dpIndLongY _) => none
  | .mem (.sr _) => none
  | .mem (.srIndY _) => none
  | .mem (.abs a) => some (.cpxAbs a)
  | .mem (.absX _) => none
  | .mem (.absY _) => none
  | .mem (.long _) => none
  | .mem (.longX _) => none

/-- CPY with an operand form it has, by the encoding line of R322. -/
def cpyOf : Source → Option Instr
  | .imm v => some (.cpyImm v)
  | .mem (.dp d) => some (.cpyDp d)
  | .mem (.dpX _) => none
  | .mem (.dpY _) => none
  | .mem (.dpInd _) => none
  | .mem (.dpIndX _) => none
  | .mem (.dpIndY _) => none
  | .mem (.dpIndLong _) => none
  | .mem (.dpIndLongY _) => none
  | .mem (.sr _) => none
  | .mem (.srIndY _) => none
  | .mem (.abs a) => some (.cpyAbs a)
  | .mem (.absX _) => none
  | .mem (.absY _) => none
  | .mem (.long _) => none
  | .mem (.longX _) => none

/-- A read, or several: `z` is `y` with nothing changed but the history of bus events (R75, R77). -/
def System.readOf (y z : System) : Prop := z = { y with busLog := z.busLog }

/-- The platform's registers and its mapping are as they were. -/
def System.samePlatform (y z : System) : Prop :=
  z.io = y.io ∧ z.rddiv = y.rddiv ∧ z.rdmpy = y.rdmpy ∧ z.rddivWait = y.rddivWait ∧ z.rdmpyWait = y.rdmpyWait ∧
    z.romMap = y.romMap

/-- Every flag but the listed ones is as it was. -/
def State.keepsFlags (s t : State) (written : List Flag) : Prop := ∀ f, f ∉ written → t.flag f = s.flag f

/-- Nothing was written: every byte of RAM and ROM, and every platform register, is as it was. -/
def State.writesNothing (s t : State) : Prop := s.sys.readOf t.sys ∧ ∀ a, t.sys.peek a = s.sys.peek a

/-- The `n` bytes `byte 0`, `byte 1`, … were stored at `addr 0`, `addr 1`, …, and nothing else was: each of these addresses that is RAM
shows its byte, every byte of RAM or ROM that is none of them shows what it did, and where all of them are RAM or ROM the platform's
registers are as they were. Not said when one of them is the DMA start register, whose write runs a transfer. -/
def State.stores (s t : State) (n : Nat) (addr : Nat → Addr) (byte : Nat → Byte) : Prop :=
  (∀ k < n, route s.sys.romMap (addr k) ≠ .io 0x420B) →
    (∀ k < n, (∃ j, route s.sys.romMap (addr k) = .ram j) → t.sys.peek (addr k) = some (byte k)) ∧
    (∀ a, (∀ k < n, s.sys.cell a ≠ s.sys.cell (addr k)) → t.sys.peek a = s.sys.peek a) ∧
    ((∀ k < n, (s.sys.cell (addr k)).isSome) → s.sys.samePlatform t.sys)

/-- Byte `k` of a 16-bit value, the least significant first (R63). -/
def byteOf (v : Word) (k : Nat) : Byte := if k = 0 then lo8 v else hi8 v

/-- The address of the stack byte `k` places below `S`, in page 1 or in bank 0 (R69). -/
def State.stackBelow (s : State) (k : Nat) : Addr :=
  addr24 0 (if s.e then join16 (hi8 s.sp) (lo8 s.sp - BitVec.ofNat 8 k) else s.sp - BitVec.ofNat 16 k)

/-- The address of the stack byte `k` places above `S`, in page 1 or in bank 0 (R70). -/
def State.stackAbove (s : State) (k : Nat) : Addr :=
  addr24 0 (if s.e then join16 (hi8 s.sp) (lo8 s.sp + BitVec.ofNat 8 k) else s.sp + BitVec.ofNat 16 k)

/-- `S` after `k` pushes by `Push8` (R69). -/
def State.spDown (s : State) (k : Nat) : Word :=
  if s.e then join16 (hi8 s.sp) (lo8 s.sp - BitVec.ofNat 8 k) else s.sp - BitVec.ofNat 16 k

/-- `S` after `k` pulls by `Pull8` (R70). -/
def State.spUp (s : State) (k : Nat) : Word :=
  if s.e then join16 (hi8 s.sp) (lo8 s.sp + BitVec.ofNat 8 k) else s.sp + BitVec.ofNat 16 k

/-- `S` after an instruction that used 16-bit stack arithmetic and reached `v`: `SH <- $01` in emulation mode (R69). -/
def State.spFixed (s : State) (v : Word) : Word := if s.e then join16 1 (lo8 v) else v

/-- N and Z are those of `v` at width `w` (R14) and no other flag is written. -/
def State.setsNZ (s t : State) (w : Width) (v : Word) : Prop :=
  t.flag .n = msb w v ∧ t.flag .z = decide (trunc w v = 0) ∧ s.keepsFlags t [.n, .z]

/-- `Acc` holds `v` at width `w`, and `B` is kept when `w` is 8 bits (R20). -/
def State.accIs (s t : State) (w : Width) (v : Word) : Prop := t.acc w = v ∧ (w = .w8 → hi8 t.c = hi8 s.c)

/-- The value a read-modify-write instruction finds in its operand. -/
def Place.value (w : Width) (p : Place) (s : State) : Word :=
  match p with
  | .acc => s.acc w
  | .mem m => ((Source.mem m).read w s).1

/-- A read-modify-write left `v` in its operand: in `Acc`, with memory as it was, or in the operand's bytes, with `C` as it was. -/
def State.leavesIn (s t : State) (w : Width) (p : Place) (v : Word) : Prop :=
  match p with
  | .acc => s.accIs t w v ∧ s.writesNothing t
  | .mem m => t.c = s.c ∧ s.stores t (widthBytes w) (m.resolve s).1.addr (byteOf v)

/-- Byte `k` of a value pushed at width `w`, the first pushed being byte 0: the high byte first (R69). -/
def pushedByte (w : Width) (v : Word) (k : Nat) : Byte :=
  match w with
  | .w8 => lo8 v
  | .w16 => byteOf v (1 - k)

/-- The bytes at two addresses are RAM or ROM and make this little-endian word (R63). -/
def System.showsWord (y : System) (a0 a1 : Addr) (v : Word) : Prop := y.peek a0 = some (lo8 v) ∧ y.peek a1 = some (hi8 v)

/-- What `Interrupt(kind, ret)` leaves (R380): the frame on the stack, I set and D cleared and no other flag changed, bank 0, `PC` at
the vector, and every other register as it was. -/
def State.entersHandler (s t : State) (kind : InterruptKind) (ret : Word) : Prop :=
  t = { s with sp := s.spDown (if s.e then 3 else 4), p := t.p, pbr := 0, pc := t.pc, sys := t.sys } ∧
  t.flag .i = true ∧ t.flag .d = false ∧ s.keepsFlags t [.i, .d] ∧
  (∀ v, t.sys.showsWord (addr24 0 (vectorOffset kind s.e)) (addr24 0 (vectorOffset kind s.e + 1)) v → t.pc = v) ∧
  (s.e = false → s.stores t 4 s.stackBelow
    (fun k => if k = 0 then s.pbr else if k = 1 then hi8 ret else if k = 2 then lo8 ret else s.p)) ∧
  (s.e = true → s.stores t 3 s.stackBelow
    (fun k => if k = 0 then hi8 ret else if k = 1 then lo8 ret else pushedStatus kind true s.p))

/-- The number a word stands for as a signed value of width `w`. -/
def signedValue (w : Width) (v : Word) : Int :=
  if v.toNat < 2 ^ (widthBits w - 1) then v.toNat else (v.toNat : Int) - 2 ^ widthBits w

/-- A number is one a signed value of width `w` can be. -/
def fitsSigned (w : Width) (n : Int) : Prop := -(2 ^ (widthBits w - 1) : Int) ≤ n ∧ n < 2 ^ (widthBits w - 1)

/-- The number the `k` low nibbles of a packed BCD value stand for (R232). -/
def bcdValue : Nat → Nat → Nat
  | 0, _ => 0
  | k + 1, v => v % 16 + 10 * bcdValue k (v / 16)

/-- The execution of a block move for `n` bytes: the instruction executed `n` times in a row (R362). -/
def repeatExec (i : Instr) : Nat → State → Result
  | 0, s => .next s
  | n + 1, s =>
    match exec i s with
    | .next t => repeatExec i n t
    | .fault r => .fault r
    | .refused r => .refused r

end Sys2Proof.Machine
end

