-- ==== Sys2Proof/Safety.lean ====
section
/-! DEFINITION. The invariants the spec gives the state (R22, R39), the canonical form of memory, and the end of a run (R447). -/

namespace Sys2Proof.Machine

/-- R22: while `P.x = 1` the high bytes of `X` and `Y` are 0. -/
def State.indexInv (s : State) : Prop := s.flag .x = true → hi8 s.x = 0 ∧ hi8 s.y = 0

/-- R39 (a), (b): in emulation mode `P.m = P.x = 1` and `SH = $01`. -/
def State.emulationInv (s : State) : Prop := s.e = true → s.flag .m = true ∧ s.flag .x = true ∧ hi8 s.sp = 1

/-- Both lists of bytes are in canonical form. -/
def State.memoryInv (s : State) : Prop := s.sys.mem.wf Memory.unlisted ∧ s.sys.io.wf ioUnlisted

/-- What holds in every state of a run. -/
def State.Inv (s : State) : Prop := s.indexInv ∧ s.emulationInv ∧ s.memoryInv

/-- A sample that asks for nothing: no NMI edge, no reset, and no IRQ but a masked one. -/
def Input.quiet (masked : Bool) (i : Input) : Prop := i.nmiEdge = false ∧ i.reset = false ∧ (i.irqLine = false ∨ masked = true)

/-- No request is pending and the environment has none left to send: every sample still to come is quiet, and so is the level the
next boundary sees. How many samples are left does not matter. -/
def State.quiet (masked : Bool) (s : State) : Prop :=
  s.nmiPending = false ∧ (s.sample.irqLine = false ∨ masked = true) ∧ ∀ i ∈ s.inputs, i.quiet masked

/-- The state after a boundary at which nothing architectural changes: the sample is taken, and a product, quotient or remainder on its
way comes one instruction nearer (hidden state of the platform, R44). -/
def State.passBoundary (s : State) : State := s.sample.setSys s.sys.tickMath

/-- R447 (a): the processor has stopped. -/
def State.ended (s : State) : Prop := s.stopped = true

/-- R447 (b): it waits, and its environment sends no NMI edge and never asserts IRQ (nor reset). -/
def State.waitsForever (s : State) : Prop := s.waiting = true ∧ s.quiet false

/-- R447 (c): it runs an instruction that transfers control to itself with no other effect, with IRQ masked or absent and no NMI. -/
def State.loopsForever (s : State) : Prop :=
  s.stopped = false ∧ s.waiting = false ∧ s.quiet (s.flag .i) ∧ step s = .next s.passBoundary

/-- R447: the run has ended. -/
def State.runEnded (s : State) : Prop := s.ended ∨ s.waitsForever ∨ s.loopsForever

end Sys2Proof.Machine
end

