-- ==== Sys2Proof/Certificates/Slice0/Obligations.lean ====
section
/-! DEFINITION. The statements for the provers. Each is about the machine, for every state and operand that meets what it assumes. -/

open Sys2Proof Sys2Proof.Machine

/-! ### Encoding and the step -/

/-- R370, R116: every instruction has a next state in every state, and so has every step. -/
def Obligations.EveryInstructionCompletes : Prop :=
  (∀ (i : Instr) (s : State), ∃ t, exec i s = .next t) ∧ ∀ s : State, ∃ t, step s = .next t

/-- R381: when no reset, interrupt, stop or wait comes first and the bytes fetched at `PBR:PC` decode to `i`, the step is `i` run on
the state the fetch leaves: the environment's sample taken, a multiplication or division one instruction older, and nothing else
changed but the history of bus reads. -/
def Obligations.StepRunsDecodedInstruction : Prop :=
  ∀ (s : State) (i : Instr), s.sample.action s.resetRequested = .fetch →
    decode (s.flag .m) (s.flag .x) (s.sample.setSys s.sys.tickMath).fetchBytes.1 = .ok (i, []) →
    step s = exec i (s.sample.setSys s.sys.tickMath).fetchBytes.2 ∧
      (s.sample.setSys s.sys.tickMath).fetchBytes.2 =
        s.sample.setSys (s.sample.setSys s.sys.tickMath).fetchBytes.2.sys ∧
      s.sys.tickMath.readOf (s.sample.setSys s.sys.tickMath).fetchBytes.2.sys

/-- R26, R27, R67, R84, R381: an instruction whose encoding stands in RAM or ROM from `PBR:PC` on, wrapping inside the bank, is the one
the step runs. -/
def Obligations.StepRunsInstructionInMemory : Prop :=
  ∀ (s : State) (i : Instr), i.wf (s.flag .m) (s.flag .x) = true → s.sample.action s.resetRequested = .fetch →
    (∀ k b, (encode (s.flag .m) (s.flag .x) i)[k]? = some b → s.sys.peek (s.fetchAddr k) = some b) →
    step s = exec i (s.sample.setSys s.sys.tickMath)

/-- R100, R102, R103, R115: decoding the encoding of a well-formed instruction gives it back, whatever bytes follow. -/
def Obligations.EncodedInstructionsDecode : Prop :=
  ∀ (m x : Bool) (i : Instr) (rest : List Byte), i.wf m x = true → decode m x (encode m x i ++ rest) = .ok (i, rest)

/-- R116, R119: every sequence of at least four bytes decodes, to a well-formed instruction whose encoding is exactly the bytes used. -/
def Obligations.EveryByteSequenceDecodes : Prop :=
  ∀ (m x : Bool) (bytes : List Byte), 4 ≤ bytes.length →
    ∃ i rest, decode m x bytes = .ok (i, rest) ∧ i.wf m x = true ∧ bytes = encode m x i ++ rest

/-- R103, R115: an instruction is one to four bytes long; exactly twelve opcodes have a length that depends on the flags, those of the
accumulator immediates on `P.m` and those of the index immediates on `P.x`. -/
def Obligations.OpcodeLengths : Prop :=
  (∀ m x op, 1 ≤ opcodeLength m x op ∧ opcodeLength m x op ≤ 4) ∧
  (∀ m x op, op ∈ [(0x09 : Byte), 0x29, 0x49, 0x69, 0x89, 0xA9, 0xC9, 0xE9] → opcodeLength m x op = if m then 2 else 3) ∧
  (∀ m x op, op ∈ [(0xA0 : Byte), 0xA2, 0xC0, 0xE0] → opcodeLength m x op = if x then 2 else 3) ∧
  (∀ op m x m' x', opcodeLength m x op ≠ opcodeLength m' x' op →
    op ∈ [(0x09 : Byte), 0x29, 0x49, 0x69, 0x89, 0xA9, 0xC9, 0xE9, 0xA0, 0xA2, 0xC0, 0xE0])

/-- R100, R113: words of the spec's own examples decode to the instructions they stand for. -/
def Obligations.ExampleWordsDecode : Prop :=
  decode true false [0xA9, 0x80] = .ok (.ldaImm 0x80, []) ∧ decode false false [0xA9, 0x34, 0x12] = .ok (.ldaImm 0x1234, []) ∧
  decode true true [0x9F, 0x00, 0x00, 0x7F] = .ok (.staLongX 0x7F0000, []) ∧
  decode true true [0x54, 0x7F, 0x7E] = .ok (.mvn 0x7F 0x7E, []) ∧ decode true true [0xC2, 0x30] = .ok (.rep 0x30, []) ∧
  decode true true [0x82, 0xFD, 0x0F] = .ok (.brl 0x0FFD, []) ∧ decode true true [0x22, 0x00, 0x90, 0x81] = .ok (.jsl 0x819000, [])

/-! ### Reset and the invariants -/

/-- R45, R420: the state after reset, where the spec gives a value. -/
def Obligations.ResetState : Prop :=
  State.reset.e = true ∧ State.reset.flag .m = true ∧ State.reset.flag .x = true ∧ State.reset.flag .i = true ∧
  State.reset.flag .d = false ∧ State.reset.d = 0 ∧ State.reset.dbr = 0 ∧ State.reset.pbr = 0 ∧ hi8 State.reset.sp = 1 ∧
  hi8 State.reset.x = 0 ∧ hi8 State.reset.y = 0 ∧ State.reset.stopped = false ∧ State.reset.waiting = false ∧
  State.reset.nmiPending = false ∧ State.reset.sys.showsWord 0x00FFFC 0x00FFFD State.reset.pc

/-- R420, R421, R381: a reset asked for at a boundary is taken before anything else, from every state; it gives the values of R420 and
leaves RAM and ROM alone. -/
def Obligations.ResetDuringRun : Prop :=
  ∀ s : State, s.resetRequested = true → ∃ t, step s = .next t ∧
    t.e = true ∧ t.flag .m = true ∧ t.flag .x = true ∧ t.flag .i = true ∧ t.flag .d = false ∧ t.d = 0 ∧ t.dbr = 0 ∧ t.pbr = 0 ∧
    hi8 t.sp = 1 ∧ hi8 t.x = 0 ∧ hi8 t.y = 0 ∧ t.stopped = false ∧ t.waiting = false ∧ t.nmiPending = false ∧
    (∀ a, t.sys.peek a = s.sys.peek a) ∧ t.sys.showsWord 0x00FFFC 0x00FFFD t.pc

/-- R22, R39: the invariants hold after reset, and memory is in canonical form. -/
def Obligations.InvAtReset : Prop := State.reset.Inv

/-- R22, R39: whatever a step does, it keeps: index high bytes 0 while `P.x = 1`; `P.m = P.x = 1` and `SH = $01` in emulation mode;
the canonical form of memory. -/
def Obligations.InvKeptByEveryStep : Prop := ∀ s t : State, s.Inv → step s = .next t → t.Inv

/-! ### Which instructions can change which state -/

/-- R38, R27, R46, R48: only XCE changes `E`; only JML, JSL, RTL, RTI in native mode and the software interrupts change `PBR`; only PLB,
MVN, MVP change `DBR`; only TCD and PLD change `D`. -/
def Obligations.RegisterWriters : Prop :=
  ∀ (i : Instr) (s t : State), exec i s = .next t →
    (t.e ≠ s.e → i = .xce) ∧
    (t.pbr ≠ s.pbr → (∃ a, i = .jmlLong a) ∨ (∃ a, i = .jmlAbsIndLong a) ∨ (∃ a, i = .jsl a) ∨ i = .rtl ∨
      (i = .rti ∧ s.e = false) ∨ (∃ g, i = .brk g) ∨ ∃ g, i = .cop g) ∧
    (t.dbr ≠ s.dbr → i = .plb ∨ (∃ a b, i = .mvn a b) ∨ ∃ a b, i = .mvp a b) ∧
    (t.d ≠ s.d → i = .tcd ∨ i = .pld)

/-- R44, R332, R333, R389: only STP sets `stopped` and only WAI sets `waiting`; no instruction touches the pending NMI or the IRQ level.
That none touches the queue of samples or the mapping is the model's choice (log 17, log 5). -/
def Obligations.HiddenStateWriters : Prop :=
  ∀ (i : Instr) (s t : State), exec i s = .next t →
    (t.stopped ≠ s.stopped → i = .stp) ∧ (t.waiting ≠ s.waiting → i = .wai) ∧ t.nmiPending = s.nmiPending ∧
    t.irqLine = s.irqLine ∧ t.inputs = s.inputs ∧ t.sys.romMap = s.sys.romMap

/-- R20: while `P.m = 1` no instruction changes `B` but XBA, TDC, TSC, MVN, MVP. -/
def Obligations.HighByteOfAccumulatorKept : Prop :=
  ∀ (i : Instr) (s t : State), exec i s = .next t → s.flag .m = true → hi8 t.c ≠ hi8 s.c →
    i = .xba ∨ i = .tdc ∨ i = .tsc ∨ (∃ a b, i = .mvn a b) ∨ ∃ a b, i = .mvp a b

/-- R30 to R34: which instructions can change `P.v`, `P.m`, `P.x`, `P.d`, `P.i`. -/
def Obligations.FlagWriters : Prop :=
  ∀ (i : Instr) (s t : State), exec i s = .next t →
    (t.flag .v ≠ s.flag .v → (∃ q, adcOf q = some i) ∨ (∃ q, sbcOf q = some i) ∨ (∃ q, bitOf (.mem q) = some i) ∨ i = .clv ∨
      (∃ k, i = .rep k) ∨ (∃ k, i = .sep k) ∨ i = .plp ∨ i = .rti) ∧
    (t.flag .m ≠ s.flag .m → (∃ k, i = .rep k) ∨ (∃ k, i = .sep k) ∨ i = .plp ∨ i = .rti ∨ i = .xce) ∧
    (t.flag .x ≠ s.flag .x → (∃ k, i = .rep k) ∨ (∃ k, i = .sep k) ∨ i = .plp ∨ i = .rti ∨ i = .xce) ∧
    (t.flag .d ≠ s.flag .d → i = .cld ∨ i = .sed ∨ (∃ k, i = .rep k) ∨ (∃ k, i = .sep k) ∨ i = .plp ∨ i = .rti ∨
      (∃ g, i = .brk g) ∨ ∃ g, i = .cop g) ∧
    (t.flag .i ≠ s.flag .i → i = .cli ∨ i = .sei ∨ (∃ k, i = .rep k) ∨ (∃ k, i = .sep k) ∨ i = .plp ∨ i = .rti ∨
      (∃ g, i = .brk g) ∨ ∃ g, i = .cop g)

/-! ### Operands -/

/-- R132 to R136, R141 to R143, R149, R157, R158, R65, R66, R68: the address of byte `k` of an operand in the modes without a pointer, as
a number; finding it changes nothing. In emulation mode (the page wrap with `DL = $00`, and any access with `DL` not `$00` or `D` not 0)
this is R158 accepted whole, the model's choice where D17 lets a model refuse (PRESUMED, log 15). -/
def Obligations.OperandAddresses : Prop :=
  ∀ (s : State) (k : Nat), k < 3 →
    (∀ a : Word, (((Mode.abs a).resolve s).1.addr k).toNat = (s.dbr.toNat * 65536 + a.toNat + k) % 2 ^ 24 ∧
      (((Mode.absX a).resolve s).1.addr k).toNat = (s.dbr.toNat * 65536 + a.toNat + s.x.toNat + k) % 2 ^ 24 ∧
      (((Mode.absY a).resolve s).1.addr k).toNat = (s.dbr.toNat * 65536 + a.toNat + s.y.toNat + k) % 2 ^ 24 ∧
      ((Mode.abs a).resolve s).2 = s ∧ ((Mode.absX a).resolve s).2 = s ∧ ((Mode.absY a).resolve s).2 = s) ∧
    (∀ a : Addr, (((Mode.long a).resolve s).1.addr k).toNat = (a.toNat + k) % 2 ^ 24 ∧
      (((Mode.longX a).resolve s).1.addr k).toNat = (a.toNat + s.x.toNat + k) % 2 ^ 24 ∧
      ((Mode.long a).resolve s).2 = s ∧ ((Mode.longX a).resolve s).2 = s) ∧
    (∀ d : Byte, (¬ (s.e = true ∧ lo8 s.d = 0) →
        (((Mode.dp d).resolve s).1.addr k).toNat = (s.d.toNat + d.toNat + k) % 65536 ∧
        (((Mode.dpX d).resolve s).1.addr k).toNat = (s.d.toNat + d.toNat + s.x.toNat + k) % 65536 ∧
        (((Mode.dpY d).resolve s).1.addr k).toNat = (s.d.toNat + d.toNat + s.y.toNat + k) % 65536) ∧
      (s.e = true ∧ lo8 s.d = 0 →
        (((Mode.dp d).resolve s).1.addr k).toNat = (hi8 s.d).toNat * 256 + (d.toNat + k) % 256 ∧
        (((Mode.dpX d).resolve s).1.addr k).toNat = (hi8 s.d).toNat * 256 + (d.toNat + (lo8 s.x).toNat + k) % 256 ∧
        (((Mode.dpY d).resolve s).1.addr k).toNat = (hi8 s.d).toNat * 256 + (d.toNat + (lo8 s.y).toNat + k) % 256) ∧
      (((Mode.sr d).resolve s).1.addr k).toNat = (s.sp.toNat + d.toNat + k) % 65536 ∧
      ((Mode.dp d).resolve s).2 = s ∧ ((Mode.dpX d).resolve s).2 = s ∧ ((Mode.dpY d).resolve s).2 = s ∧
      ((Mode.sr d).resolve s).2 = s)

/-- R144 to R148, R150: the address of byte `k` of an operand found through a pointer whose bytes are RAM or ROM, as a number; finding it
changes nothing. Where the pointer stands, R158's page wrap of its second byte and of `(d,X)` among it, is in emulation mode R158 accepted
whole, the model's choice where D17 lets a model refuse (PRESUMED, log 15). -/
def Obligations.PointerAddresses : Prop :=
  ∀ (s : State) (d : Byte) (k : Nat) (p : Word), k < 3 →
    (s.sys.showsWord (((Mode.dp d).resolve s).1.addr 0) (((Mode.dp d).resolve s).1.addr 1) p →
      (((Mode.dpInd d).resolve s).1.addr k).toNat = (s.dbr.toNat * 65536 + p.toNat + k) % 2 ^ 24 ∧
      (((Mode.dpIndY d).resolve s).1.addr k).toNat = (s.dbr.toNat * 65536 + p.toNat + s.y.toNat + k) % 2 ^ 24 ∧
      ((Mode.dpInd d).resolve s).2 = s ∧ ((Mode.dpIndY d).resolve s).2 = s) ∧
    (s.sys.showsWord (((Mode.dpX d).resolve s).1.addr 0) (((Mode.dpX d).resolve s).1.addr 1) p →
      (((Mode.dpIndX d).resolve s).1.addr k).toNat = (s.dbr.toNat * 65536 + p.toNat + k) % 2 ^ 24 ∧
      ((Mode.dpIndX d).resolve s).2 = s) ∧
    (∀ bank : Byte, s.sys.showsWord (addr24 0 (s.d + zext16 d)) (addr24 0 (s.d + zext16 d + 1)) p →
      s.sys.peek (addr24 0 (s.d + zext16 d + 2)) = some bank →
      (((Mode.dpIndLong d).resolve s).1.addr k).toNat = (bank.toNat * 65536 + p.toNat + k) % 2 ^ 24 ∧
      (((Mode.dpIndLongY d).resolve s).1.addr k).toNat = (bank.toNat * 65536 + p.toNat + s.y.toNat + k) % 2 ^ 24 ∧
      ((Mode.dpIndLong d).resolve s).2 = s ∧ ((Mode.dpIndLongY d).resolve s).2 = s) ∧
    (s.sys.showsWord (((Mode.sr d).resolve s).1.addr 0) (((Mode.sr d).resolve s).1.addr 1) p →
      (((Mode.srIndY d).resolve s).1.addr k).toNat = (s.dbr.toNat * 65536 + p.toNat + s.y.toNat + k) % 2 ^ 24 ∧
      ((Mode.srIndY d).resolve s).2 = s)

/-- R63, R64, R131, R159: an immediate operand is its value at the width in force; a memory operand in RAM or ROM is its bytes, the low
one at the operand's address; a read writes nothing. -/
def Obligations.OperandValues : Prop :=
  ∀ (s : State) (w : Width),
    (∀ v : Word, ((Source.imm v).read w s).1.toNat = v.toNat % 2 ^ widthBits w ∧ ((Source.imm v).read w s).2 = s) ∧
    ∀ m : Mode, s.writesNothing ((Source.mem m).read w s).2 ∧
      (∀ b, w = .w8 → s.sys.peek ((m.resolve s).1.addr 0) = some b → ((Source.mem m).read w s).1 = zext16 b) ∧
      (∀ v, w = .w16 → s.sys.showsWord ((m.resolve s).1.addr 0) ((m.resolve s).1.addr 1) v → ((Source.mem m).read w s).1 = v)

/-! ### Loads and stores -/

/-- R170: LDA, every operand form, with its frame. -/
def Obligations.LdaLoads : Prop :=
  ∀ (q : Source) (i : Instr) (s : State), ldaOf q = some i → ∃ t, exec i s = .next t ∧
    s.accIs t s.wA (q.read s.wA s).1 ∧ s.setsNZ t s.wA (q.read s.wA s).1 ∧
    t = { s with c := t.c, p := t.p, pc := s.pc + BitVec.ofNat 16 (q.length s.wA), sys := t.sys } ∧ s.writesNothing t

/-- R171, R172: LDX and LDY, every operand form, with their frames. -/
def Obligations.LdxLdyLoad : Prop :=
  ∀ (q : Source) (i : Instr) (s : State),
    (ldxOf q = some i → ∃ t, exec i s = .next t ∧ t.x = (q.read s.wX s).1 ∧ s.setsNZ t s.wX (q.read s.wX s).1 ∧
      t = { s with x := t.x, p := t.p, pc := s.pc + BitVec.ofNat 16 (q.length s.wX), sys := t.sys } ∧ s.writesNothing t) ∧
    (ldyOf q = some i → ∃ t, exec i s = .next t ∧ t.y = (q.read s.wX s).1 ∧ s.setsNZ t s.wX (q.read s.wX s).1 ∧
      t = { s with y := t.y, p := t.p, pc := s.pc + BitVec.ofNat 16 (q.length s.wX), sys := t.sys } ∧ s.writesNothing t)

/-- R173 to R176: STA, STX, STY, STZ, every operand form: the register's bytes, or zeros, go to the operand's address, low byte first; no
flag and no register but `PC` changes. Where a stored byte falls on a `Bus` register, that RAM and ROM are left alone rests on log 7, the
model's choice: R75 says that such a write may have effects anywhere in the platform. -/
def Obligations.StoresWriteOperand : Prop :=
  ∀ (m : Mode) (i : Instr) (s : State) (w : Width) (v : Word),
    (staOf m = some i ∧ w = s.wA ∧ v = s.c) ∨ (stxOf m = some i ∧ w = s.wX ∧ v = s.x) ∨
      (styOf m = some i ∧ w = s.wX ∧ v = s.y) ∨ (stzOf m = some i ∧ w = s.wA ∧ v = 0) →
    ∃ t, exec i s = .next t ∧ t = { s with pc := s.pc + BitVec.ofNat 16 m.length, sys := t.sys } ∧
      s.stores t (widthBytes w) (m.resolve s).1.addr (byteOf v)

/-! ### Transfers -/

/-- R177 to R182, R188: the transfers to `X`, `Y` and `Acc` take the width of the destination, and N and Z from the value written; their
opcodes. -/
def Obligations.TransfersToIndexAndAccumulator : Prop :=
  Instr.opcode .tax = 0xAA ∧ Instr.opcode .tay = 0xA8 ∧ Instr.opcode .txa = 0x8A ∧ Instr.opcode .tya = 0x98 ∧
  Instr.opcode .txy = 0x9B ∧ Instr.opcode .tyx = 0xBB ∧ Instr.opcode .tsx = 0xBA ∧
  ∀ s : State,
    (∃ t, exec .tax s = .next t ∧ t.x = (if s.flag .x then zext16 (lo8 s.c) else s.c) ∧ s.setsNZ t s.wX t.x ∧
      t = { s with x := t.x, p := t.p, pc := s.pc + 1 }) ∧
    (∃ t, exec .tay s = .next t ∧ t.y = (if s.flag .x then zext16 (lo8 s.c) else s.c) ∧ s.setsNZ t s.wX t.y ∧
      t = { s with y := t.y, p := t.p, pc := s.pc + 1 }) ∧
    (∃ t, exec .txa s = .next t ∧ t.c = (if s.flag .m then join16 (hi8 s.c) (lo8 s.x) else s.x) ∧ s.setsNZ t s.wA s.x ∧
      t = { s with c := t.c, p := t.p, pc := s.pc + 1 }) ∧
    (∃ t, exec .tya s = .next t ∧ t.c = (if s.flag .m then join16 (hi8 s.c) (lo8 s.y) else s.y) ∧ s.setsNZ t s.wA s.y ∧
      t = { s with c := t.c, p := t.p, pc := s.pc + 1 }) ∧
    (∃ t, exec .txy s = .next t ∧ t.y = s.x ∧ s.setsNZ t s.wX s.x ∧ t = { s with y := t.y, p := t.p, pc := s.pc + 1 }) ∧
    (∃ t, exec .tyx s = .next t ∧ t.x = s.y ∧ s.setsNZ t s.wX s.y ∧ t = { s with x := t.x, p := t.p, pc := s.pc + 1 }) ∧
    (∃ t, exec .tsx s = .next t ∧ t.x = (if s.flag .x then zext16 (lo8 s.sp) else s.sp) ∧ s.setsNZ t s.wX t.x ∧
      t = { s with x := t.x, p := t.p, pc := s.pc + 1 })

/-- R183 to R187: TCD, TDC, TSC move 16 bits and set N and Z at 16 bits; TCS and TXS set no flag, and in emulation mode make `S` a byte
under `$01`; their opcodes. -/
def Obligations.TransfersWithDAndS : Prop :=
  Instr.opcode .tcd = 0x5B ∧ Instr.opcode .tdc = 0x7B ∧ Instr.opcode .tcs = 0x1B ∧ Instr.opcode .tsc = 0x3B ∧
  Instr.opcode .txs = 0x9A ∧
  ∀ s : State,
    (∃ t, exec .tcd s = .next t ∧ t.d = s.c ∧ s.setsNZ t .w16 s.c ∧ t = { s with d := t.d, p := t.p, pc := s.pc + 1 }) ∧
    (∃ t, exec .tdc s = .next t ∧ t.c = s.d ∧ s.setsNZ t .w16 s.d ∧ t = { s with c := t.c, p := t.p, pc := s.pc + 1 }) ∧
    (∃ t, exec .tsc s = .next t ∧ t.c = s.sp ∧ s.setsNZ t .w16 s.sp ∧ t = { s with c := t.c, p := t.p, pc := s.pc + 1 }) ∧
    exec .tcs s = .next { s with sp := if s.e then join16 1 (lo8 s.c) else s.c, pc := s.pc + 1 } ∧
    exec .txs s = .next { s with sp := if s.e then join16 1 (lo8 s.x) else s.x, pc := s.pc + 1 }

/-! ### The stack -/

/-- R200 to R203, R205, R206, R69: PHA, PHX, PHY push their register at its width, PHB, PHK, PHP one byte, the high byte first, from `S`
down; in emulation mode inside the page. Where a pushed byte falls on a `Bus` register, that RAM and ROM are left alone rests on log 7,
the model's choice: R75 says that such a write may have effects anywhere in the platform. -/
def Obligations.RegisterPushes : Prop :=
  ∀ s : State,
    (∃ t, exec .pha s = .next t ∧ t = { s with sp := s.spDown (widthBytes s.wA), pc := s.pc + 1, sys := t.sys } ∧
      s.stores t (widthBytes s.wA) s.stackBelow (pushedByte s.wA s.c)) ∧
    (∃ t, exec .phx s = .next t ∧ t = { s with sp := s.spDown (widthBytes s.wX), pc := s.pc + 1, sys := t.sys } ∧
      s.stores t (widthBytes s.wX) s.stackBelow (pushedByte s.wX s.x)) ∧
    (∃ t, exec .phy s = .next t ∧ t = { s with sp := s.spDown (widthBytes s.wX), pc := s.pc + 1, sys := t.sys } ∧
      s.stores t (widthBytes s.wX) s.stackBelow (pushedByte s.wX s.y)) ∧
    (∃ t, exec .phb s = .next t ∧ t = { s with sp := s.spDown 1, pc := s.pc + 1, sys := t.sys } ∧
      s.stores t 1 s.stackBelow (fun _ => s.dbr)) ∧
    (∃ t, exec .phk s = .next t ∧ t = { s with sp := s.spDown 1, pc := s.pc + 1, sys := t.sys } ∧
      s.stores t 1 s.stackBelow (fun _ => s.pbr)) ∧
    (∃ t, exec .php s = .next t ∧ t = { s with sp := s.spDown 1, pc := s.pc + 1, sys := t.sys } ∧
      s.stores t 1 s.stackBelow (fun _ => s.p))

/-- R204, R213 to R215, R69: PHD, PEA, PEI, PER push 16 bits, high byte first. In emulation mode their stack bytes follow 16-bit
arithmetic and `SH` is made `$01` at the end; that the page-1 edge behaves so is the model's choice among the spec's two (D15, log 14).
PEI's direct-page pointer in emulation mode is R158 accepted whole, the model's choice where D17 lets a model refuse (log 15). Where a
pushed byte falls on a `Bus` register, that RAM and ROM are left alone rests on log 7, the model's choice: R75 says that such a write may
have effects anywhere in the platform. -/
def Obligations.WordPushes : Prop :=
  ∀ s : State,
    (∃ t, exec .phd s = .next t ∧ t = { s with sp := s.spFixed (s.sp - 2), pc := s.pc + 1, sys := t.sys } ∧
      s.stores t 2 (fun k => addr24 0 (s.sp - BitVec.ofNat 16 k)) (pushedByte .w16 s.d)) ∧
    (∀ v : Word, ∃ t, exec (.pea v) s = .next t ∧ t = { s with sp := s.spFixed (s.sp - 2), pc := s.pc + 3, sys := t.sys } ∧
      s.stores t 2 (fun k => addr24 0 (s.sp - BitVec.ofNat 16 k)) (pushedByte .w16 v)) ∧
    (∀ d : Byte, ∃ t, exec (.pei d) s = .next t ∧ t = { s with sp := s.spFixed (s.sp - 2), pc := s.pc + 2, sys := t.sys } ∧
      s.stores t 2 (fun k => addr24 0 (s.sp - BitVec.ofNat 16 k)) (pushedByte .w16 (s.read16 (s.directNoWrap d)).1) ∧
      ∀ v, s.sys.showsWord (addr24 0 (s.d + zext16 d)) (addr24 0 (s.d + zext16 d + 1)) v → (s.read16 (s.directNoWrap d)).1 = v) ∧
    (∀ disp : Word, ∃ t, exec (.per disp) s = .next t ∧
      t = { s with sp := s.spFixed (s.sp - 2), pc := s.pc + 3, sys := t.sys } ∧
      s.stores t 2 (fun k => addr24 0 (s.sp - BitVec.ofNat 16 k)) (pushedByte .w16 (s.pc + 3 + disp)))

/-- R207 to R209, R70: PLA, PLX, PLY pull at their width from above `S`, low byte first, and set N and Z from the value. -/
def Obligations.RegisterPulls : Prop :=
  ∀ s : State,
    (∃ t v, exec .pla s = .next t ∧ s.accIs t s.wA v ∧ s.setsNZ t s.wA v ∧
      t = { s with c := t.c, sp := s.spUp (widthBytes s.wA), p := t.p, pc := s.pc + 1, sys := t.sys } ∧ s.writesNothing t ∧
      (∀ b, s.wA = .w8 → s.sys.peek (s.stackAbove 1) = some b → v = zext16 b) ∧
      (∀ u, s.wA = .w16 → s.sys.showsWord (s.stackAbove 1) (s.stackAbove 2) u → v = u)) ∧
    (∃ t, exec .plx s = .next t ∧ s.setsNZ t s.wX t.x ∧
      t = { s with x := t.x, sp := s.spUp (widthBytes s.wX), p := t.p, pc := s.pc + 1, sys := t.sys } ∧ s.writesNothing t ∧
      (∀ b, s.wX = .w8 → s.sys.peek (s.stackAbove 1) = some b → t.x = zext16 b) ∧
      (∀ u, s.wX = .w16 → s.sys.showsWord (s.stackAbove 1) (s.stackAbove 2) u → t.x = u)) ∧
    (∃ t, exec .ply s = .next t ∧ s.setsNZ t s.wX t.y ∧
      t = { s with y := t.y, sp := s.spUp (widthBytes s.wX), p := t.p, pc := s.pc + 1, sys := t.sys } ∧ s.writesNothing t ∧
      (∀ b, s.wX = .w8 → s.sys.peek (s.stackAbove 1) = some b → t.y = zext16 b) ∧
      (∀ u, s.wX = .w16 → s.sys.showsWord (s.stackAbove 1) (s.stackAbove 2) u → t.y = u))

/-- R210, R211, R70: PLB pulls one byte and sets N and Z from it at 8 bits, PLD two bytes at 16 bits. In emulation mode their stack bytes
follow 16-bit arithmetic; that is the model's choice at the page-1 edge (D15, log 14). -/
def Obligations.BankAndDirectPulls : Prop :=
  ∀ s : State,
    (∃ t, exec .plb s = .next t ∧ s.setsNZ t .w8 (zext16 t.dbr) ∧
      t = { s with dbr := t.dbr, sp := s.spFixed (s.sp + 1), p := t.p, pc := s.pc + 1, sys := t.sys } ∧ s.writesNothing t ∧
      ∀ b, s.sys.peek (addr24 0 (s.sp + 1)) = some b → t.dbr = b) ∧
    (∃ t, exec .pld s = .next t ∧ s.setsNZ t .w16 t.d ∧
      t = { s with d := t.d, sp := s.spFixed (s.sp + 2), p := t.p, pc := s.pc + 1, sys := t.sys } ∧ s.writesNothing t ∧
      ∀ v, s.sys.showsWord (addr24 0 (s.sp + 1)) (addr24 0 (s.sp + 2)) v → t.d = v)

/-- R212, R41, R37: PLP replaces all of `P`, but in emulation mode `P.m` and `P.x` stay 1; if `P.x` is then 1 the index high bytes are
cleared; `E` is not affected. -/
def Obligations.PlpPullsStatus : Prop :=
  ∀ s : State, ∃ t, exec .plp s = .next t ∧ s.writesNothing t ∧
    t = { s with p := t.p, x := t.x, y := t.y, sp := t.sp, pc := s.pc + 1, sys := t.sys } ∧
    t.sp = (if s.e then join16 1 (lo8 (s.spUp 1)) else s.spUp 1) ∧
    (∀ b, s.sys.peek (s.stackAbove 1) = some b →
      ∀ f, t.flag f = if f = .m ∨ f = .x then s.e || b.getLsbD f.index else b.getLsbD f.index) ∧
    t.x = (if t.flag .x then zext16 (lo8 s.x) else s.x) ∧ t.y = (if t.flag .x then zext16 (lo8 s.y) else s.y)

/-- R69, R70, R200, R207: what PHA pushes on a stack in RAM, PLA pulls back, and `S` is as it was. -/
def Obligations.PushThenPull : Prop :=
  ∀ s : State, (∀ k < 2, ∃ j, route s.sys.romMap (s.stackBelow k) = .ram j) →
    ∃ t u, exec .pha s = .next t ∧ exec .pla t = .next u ∧ u.c = s.c ∧ u.sp = s.sp ∧ u.pc = s.pc + 2 ∧
      s.setsNZ u s.wA s.c

/-! ### Arithmetic -/

/-- R230: binary ADC in every operand form, with exact numbers: the sum modulo `2^w`, the carry out, `P.v` when the signed sum does not
fit, N and Z from the result. -/
def Obligations.AdcAddsBinary : Prop :=
  ∀ (q : Source) (i : Instr) (s : State), adcOf q = some i → s.flag .d = false ∨ Config.decimalEnabled = false →
    ∃ t, exec i s = .next t ∧
      (t.acc s.wA).toNat = ((s.acc s.wA).toNat + (q.read s.wA s).1.toNat + (s.flag .c).toNat) % 2 ^ widthBits s.wA ∧
      (t.flag .c = true ↔ 2 ^ widthBits s.wA ≤ (s.acc s.wA).toNat + (q.read s.wA s).1.toNat + (s.flag .c).toNat) ∧
      (t.flag .v = true ↔ ¬ fitsSigned s.wA
        (signedValue s.wA (s.acc s.wA) + signedValue s.wA (q.read s.wA s).1 + (s.flag .c).toNat)) ∧
      t.free = s.free

/-- R231: binary SBC in every operand form: the difference modulo `2^w`, `P.c` when there is no borrow, `P.v` exactly when the signed
result does not fit. -/
def Obligations.SbcSubtractsBinary : Prop :=
  ∀ (q : Source) (i : Instr) (s : State), sbcOf q = some i → s.flag .d = false ∨ Config.decimalEnabled = false →
    ∃ t, exec i s = .next t ∧
      ((t.acc s.wA).toNat : Int) =
        ((s.acc s.wA).toNat - (q.read s.wA s).1.toNat - (1 - (s.flag .c).toNat) : Int) % 2 ^ widthBits s.wA ∧
      (t.flag .c = true ↔ (q.read s.wA s).1.toNat + (1 - (s.flag .c).toNat) ≤ (s.acc s.wA).toNat) ∧
      (t.flag .v = true ↔ ¬ fitsSigned s.wA
        (signedValue s.wA (s.acc s.wA) - signedValue s.wA (q.read s.wA s).1 - (1 - (s.flag .c).toNat))) ∧
      t.free = s.free

/-- R232: with `P.d = 1` and packed BCD operands, ADC where decimal mode is enabled gives the decimal sum modulo `10^(w/4)`, in packed BCD,
and the decimal carry out. -/
def Obligations.AdcAddsDecimal : Prop :=
  ∀ (q : Source) (i : Instr) (s : State), adcOf q = some i → s.flag .d = true →
    bcdValid (widthBits s.wA / 4) (s.acc s.wA).toNat = true → bcdValid (widthBits s.wA / 4) (q.read s.wA s).1.toNat = true →
    ∃ t, exec i s = .next t ∧ (Config.decimalEnabled = true →
      bcdValid (widthBits s.wA / 4) (t.acc s.wA).toNat = true ∧
      bcdValue (widthBits s.wA / 4) (t.acc s.wA).toNat = (bcdValue (widthBits s.wA / 4) (s.acc s.wA).toNat +
        bcdValue (widthBits s.wA / 4) (q.read s.wA s).1.toNat + (s.flag .c).toNat) % 10 ^ (widthBits s.wA / 4) ∧
      (t.flag .c = true ↔ 10 ^ (widthBits s.wA / 4) ≤ bcdValue (widthBits s.wA / 4) (s.acc s.wA).toNat +
        bcdValue (widthBits s.wA / 4) (q.read s.wA s).1.toNat + (s.flag .c).toNat))

/-- R233: with `P.d = 1` and packed BCD operands, SBC where decimal mode is enabled gives the decimal difference modulo `10^(w/4)`, in
packed BCD, and `P.c = 1` when there is no borrow. -/
def Obligations.SbcSubtractsDecimal : Prop :=
  ∀ (q : Source) (i : Instr) (s : State), sbcOf q = some i → s.flag .d = true →
    bcdValid (widthBits s.wA / 4) (s.acc s.wA).toNat = true → bcdValid (widthBits s.wA / 4) (q.read s.wA s).1.toNat = true →
    ∃ t, exec i s = .next t ∧ (Config.decimalEnabled = true →
      bcdValid (widthBits s.wA / 4) (t.acc s.wA).toNat = true ∧
      (bcdValue (widthBits s.wA / 4) (t.acc s.wA).toNat : Int) = (bcdValue (widthBits s.wA / 4) (s.acc s.wA).toNat -
        bcdValue (widthBits s.wA / 4) (q.read s.wA s).1.toNat - (1 - (s.flag .c).toNat) : Int) % 10 ^ (widthBits s.wA / 4) ∧
      (t.flag .c = true ↔ bcdValue (widthBits s.wA / 4) (q.read s.wA s).1.toNat + (1 - (s.flag .c).toNat) ≤
        bcdValue (widthBits s.wA / 4) (s.acc s.wA).toNat))

/-- R230, R231, R14: ADC and SBC in every operand form, binary or decimal, digits valid or not: N and Z are those of the result; no flag but
N, V, Z, C, no register but `Acc` and no memory changes. That an invalid digit and `P.v` give free values, one draw each time, is the
model's form of D20 (log 13). -/
def Obligations.AdcSbcFrame : Prop :=
  ∀ (q : Source) (i : Instr) (s : State), adcOf q = some i ∨ sbcOf q = some i → ∃ t, exec i s = .next t ∧
    (s.wA = .w8 → hi8 t.c = hi8 s.c) ∧ t.flag .n = msb s.wA (t.acc s.wA) ∧ t.flag .z = decide (t.acc s.wA = 0) ∧
    s.keepsFlags t [.n, .v, .z, .c] ∧ s.writesNothing t ∧
    t = { s with c := t.c, p := t.p, pc := s.pc + BitVec.ofNat 16 (q.length s.wA), free := t.free, sys := t.sys }

/-- R234, R237, R260: INC and DEC in every operand form: one more or one less modulo `2^w`, N and Z from it. Where a stored byte falls on
a `Bus` register, that RAM and ROM are left alone rests on log 7, the model's choice: R75 says that such a write may have effects anywhere
in the platform. -/
def Obligations.IncDecOperands : Prop :=
  ∀ (p : Place) (i : Instr) (s : State),
    (incOf p = some i → ∃ t v, exec i s = .next t ∧ v.toNat = ((p.value s.wA s).toNat + 1) % 2 ^ widthBits s.wA ∧
      s.leavesIn t s.wA p v ∧ s.setsNZ t s.wA v ∧
      t = { s with c := t.c, p := t.p, pc := s.pc + BitVec.ofNat 16 p.length, sys := t.sys }) ∧
    (decOf p = some i → ∃ t v, exec i s = .next t ∧
      v.toNat = ((p.value s.wA s).toNat + (2 ^ widthBits s.wA - 1)) % 2 ^ widthBits s.wA ∧
      s.leavesIn t s.wA p v ∧ s.setsNZ t s.wA v ∧
      t = { s with c := t.c, p := t.p, pc := s.pc + BitVec.ofNat 16 p.length, sys := t.sys })

/-- R235, R236, R238, R239: INX, INY, DEX, DEY count modulo `2^wX` and set N and Z; their opcodes. -/
def Obligations.IndexCounting : Prop :=
  Instr.opcode .inx = 0xE8 ∧ Instr.opcode .iny = 0xC8 ∧ Instr.opcode .dex = 0xCA ∧ Instr.opcode .dey = 0x88 ∧
  ∀ s : State,
    (∃ t, exec .inx s = .next t ∧ t.x.toNat = (s.x.toNat + 1) % 2 ^ widthBits s.wX ∧ s.setsNZ t s.wX t.x ∧
      t = { s with x := t.x, p := t.p, pc := s.pc + 1 }) ∧
    (∃ t, exec .iny s = .next t ∧ t.y.toNat = (s.y.toNat + 1) % 2 ^ widthBits s.wX ∧ s.setsNZ t s.wX t.y ∧
      t = { s with y := t.y, p := t.p, pc := s.pc + 1 }) ∧
    (∃ t, exec .dex s = .next t ∧ (t.x.toNat : Int) = (s.x.toNat - 1 : Int) % 2 ^ widthBits s.wX ∧ s.setsNZ t s.wX t.x ∧
      t = { s with x := t.x, p := t.p, pc := s.pc + 1 }) ∧
    (∃ t, exec .dey s = .next t ∧ (t.y.toNat : Int) = (s.y.toNat - 1 : Int) % 2 ^ widthBits s.wX ∧ s.setsNZ t s.wX t.y ∧
      t = { s with y := t.y, p := t.p, pc := s.pc + 1 })

/-! ### Logic, bit tests, shifts -/

/-- R250 to R252: AND, ORA, EOR in every operand form, bit by bit, with N and Z from the result. -/
def Obligations.LogicOnAccumulator : Prop :=
  ∀ (q : Source) (i : Instr) (s : State) (f : Bool → Bool → Bool),
    (andOf q = some i ∧ f = and) ∨ (oraOf q = some i ∧ f = or) ∨ (eorOf q = some i ∧ f = xor) →
    ∃ t, exec i s = .next t ∧
      (∀ k < widthBits s.wA, (t.acc s.wA).getLsbD k = f ((s.acc s.wA).getLsbD k) ((q.read s.wA s).1.getLsbD k)) ∧
      (s.wA = .w8 → hi8 t.c = hi8 s.c) ∧ s.setsNZ t s.wA (t.acc s.wA) ∧
      t = { s with c := t.c, p := t.p, pc := s.pc + BitVec.ofNat 16 (q.length s.wA), sys := t.sys } ∧ s.writesNothing t

/-- R253: BIT in every operand form: Z from `Acc and M`; in the memory forms N and V are the operand's two top bits, in the immediate form
they stay. -/
def Obligations.BitTestsOperand : Prop :=
  ∀ (q : Source) (i : Instr) (s : State), bitOf q = some i → ∃ t, exec i s = .next t ∧
    t.flag .z = decide (s.acc s.wA &&& (q.read s.wA s).1 = 0) ∧
    (q.isImm = true → s.keepsFlags t [.z]) ∧
    (q.isImm = false → s.keepsFlags t [.n, .v, .z] ∧ t.flag .n = (q.read s.wA s).1.getLsbD (widthBits s.wA - 1) ∧
      t.flag .v = (q.read s.wA s).1.getLsbD (widthBits s.wA - 2)) ∧
    t = { s with p := t.p, pc := s.pc + BitVec.ofNat 16 (q.length s.wA), sys := t.sys } ∧ s.writesNothing t

/-- R254, R255, R260: TRB clears and TSB sets in memory the bits that are 1 in `Acc`; Z tells whether they had a bit in common; no other
flag and not `Acc` change. Where a stored byte falls on a `Bus` register, that RAM and ROM are left alone rests on log 7, the model's
choice: R75 says that such a write may have effects anywhere in the platform. -/
def Obligations.TestAndResetOrSet : Prop :=
  ∀ (m : Mode) (i : Instr) (s : State),
    (trbOf m = some i → ∃ t, exec i s = .next t ∧
      t = { s with p := t.p, pc := s.pc + BitVec.ofNat 16 m.length, sys := t.sys } ∧ s.keepsFlags t [.z] ∧
      t.flag .z = decide (s.acc s.wA &&& ((Source.mem m).read s.wA s).1 = 0) ∧
      s.stores t (widthBytes s.wA) (m.resolve s).1.addr
        (fun k => byteOf ((Source.mem m).read s.wA s).1 k &&& ~~~(byteOf (s.acc s.wA) k))) ∧
    (tsbOf m = some i → ∃ t, exec i s = .next t ∧
      t = { s with p := t.p, pc := s.pc + BitVec.ofNat 16 m.length, sys := t.sys } ∧ s.keepsFlags t [.z] ∧
      t.flag .z = decide (s.acc s.wA &&& ((Source.mem m).read s.wA s).1 = 0) ∧
      s.stores t (widthBytes s.wA) (m.resolve s).1.addr
        (fun k => byteOf ((Source.mem m).read s.wA s).1 k ||| byteOf (s.acc s.wA) k))

/-- R256 to R260: ASL, LSR, ROL, ROR in every operand form, with exact numbers: the value left, the bit moved to `P.c`, N and Z; no other
flag. Where a stored byte falls on a `Bus` register, that RAM and ROM are left alone rests on log 7, the model's choice: R75 says that
such a write may have effects anywhere in the platform. -/
def Obligations.ShiftsAndRotates : Prop :=
  ∀ (p : Place) (i : Instr) (s : State) (n : Nat) (c : Bool),
    (aslOf p = some i ∧ n = (p.value s.wA s).toNat * 2 % 2 ^ widthBits s.wA ∧ c = msb s.wA (p.value s.wA s)) ∨
    (lsrOf p = some i ∧ n = (p.value s.wA s).toNat / 2 ∧ c = (p.value s.wA s).getLsbD 0) ∨
    (rolOf p = some i ∧ n = (p.value s.wA s).toNat * 2 % 2 ^ widthBits s.wA + (s.flag .c).toNat ∧
      c = msb s.wA (p.value s.wA s)) ∨
    (rorOf p = some i ∧ n = (p.value s.wA s).toNat / 2 + (s.flag .c).toNat * 2 ^ (widthBits s.wA - 1) ∧
      c = (p.value s.wA s).getLsbD 0) →
    ∃ t v, exec i s = .next t ∧ v.toNat = n ∧ s.leavesIn t s.wA p v ∧ t.flag .c = c ∧ t.flag .n = msb s.wA v ∧
      t.flag .z = decide (v = 0) ∧ s.keepsFlags t [.n, .z, .c] ∧
      t = { s with c := t.c, p := t.p, pc := s.pc + BitVec.ofNat 16 p.length, sys := t.sys }

/-! ### Control flow -/

/-- R280 to R290, R154, R155: each branch goes to the next instruction's address plus the signed displacement, inside the bank, when its
condition holds, and on otherwise; nothing but `PC` changes; their opcodes. -/
def Obligations.BranchesTaken : Prop :=
  (∀ o : Byte, (Instr.bcc o).opcode = 0x90 ∧ (Instr.bcs o).opcode = 0xB0 ∧ (Instr.beq o).opcode = 0xF0 ∧
    (Instr.bne o).opcode = 0xD0 ∧ (Instr.bmi o).opcode = 0x30 ∧ (Instr.bpl o).opcode = 0x10 ∧ (Instr.bvc o).opcode = 0x50 ∧
    (Instr.bvs o).opcode = 0x70 ∧ (Instr.bra o).opcode = 0x80) ∧ (∀ disp : Word, (Instr.brl disp).opcode = 0x82) ∧
  (∀ (s : State) (o : Byte) (i : Instr) (taken : Bool),
    (i = .bcc o ∧ taken = !s.flag .c) ∨ (i = .bcs o ∧ taken = s.flag .c) ∨ (i = .beq o ∧ taken = s.flag .z) ∨
    (i = .bne o ∧ taken = !s.flag .z) ∨ (i = .bmi o ∧ taken = s.flag .n) ∨ (i = .bpl o ∧ taken = !s.flag .n) ∨
    (i = .bvc o ∧ taken = !s.flag .v) ∨ (i = .bvs o ∧ taken = s.flag .v) ∨ (i = .bra o ∧ taken = true) →
    ∃ t, exec i s = .next t ∧ t = { s with pc := t.pc } ∧
      (t.pc.toNat : Int) = if taken then (s.pc.toNat + 2 + o.toInt) % 65536 else (s.pc.toNat + 2) % 65536) ∧
  ∀ (s : State) (disp : Word), ∃ t, exec (.brl disp) s = .next t ∧ t = { s with pc := t.pc } ∧
    (t.pc.toNat : Int) = (s.pc.toNat + 3 + disp.toInt) % 65536

/-- R300, R301, R137 to R140, R135: the five jumps; a pointer is read from bank 0, or for `(a,X)` from the program bank; only JML writes
`PBR`, and none writes a flag. -/
def Obligations.JumpTargets : Prop :=
  ∀ s : State,
    (∀ a, exec (.jmpAbs a) s = .next { s with pc := a }) ∧
    (∀ a, exec (.jmlLong a) s = .next { s with pc := a.off, pbr := a.bank }) ∧
    (∀ a, ∃ t, exec (.jmpAbsInd a) s = .next t ∧ t = { s with pc := t.pc, sys := t.sys } ∧ s.writesNothing t ∧
      ∀ v, s.sys.showsWord (addr24 0 a) (addr24 0 (a + 1)) v → t.pc = v) ∧
    (∀ a, ∃ t, exec (.jmpAbsIndX a) s = .next t ∧ t = { s with pc := t.pc, sys := t.sys } ∧ s.writesNothing t ∧
      ∀ v, s.sys.showsWord (addr24 s.pbr (a + s.x)) (addr24 s.pbr (a + s.x + 1)) v → t.pc = v) ∧
    (∀ a, ∃ t, exec (.jmlAbsIndLong a) s = .next t ∧ t = { s with pc := t.pc, pbr := t.pbr, sys := t.sys } ∧ s.writesNothing t ∧
      ∀ v bank, s.sys.showsWord (addr24 0 a) (addr24 0 (a + 1)) v → s.sys.peek (addr24 0 (a + 2)) = some bank →
        t.pc = v ∧ t.pbr = bank)

/-- R302, R303, R69: the three calls push the address of the call's last byte, JSL the program bank before it, and go to their target. The
pointer of `JSR (a,X)` is read after the push. In emulation mode the stack bytes of `JSR (a,X)` and JSL follow 16-bit arithmetic, which is
the model's choice at the page-1 edge (D15, log 14). Where a pushed byte falls on a `Bus` register, that RAM and ROM are left alone rests
on log 7, the model's choice: R75 says that such a write may have effects anywhere in the platform. -/
def Obligations.CallsPushReturnAddress : Prop :=
  ∀ s : State,
    (∀ a, ∃ t, exec (.jsrAbs a) s = .next t ∧ t = { s with sp := s.spDown 2, pc := a, sys := t.sys } ∧
      s.stores t 2 s.stackBelow (pushedByte .w16 (s.pc + 2))) ∧
    (∀ a, ∃ t, exec (.jsrAbsIndX a) s = .next t ∧ t = { s with sp := s.spFixed (s.sp - 2), pc := t.pc, sys := t.sys } ∧
      s.stores t 2 (fun k => addr24 0 (s.sp - BitVec.ofNat 16 k)) (pushedByte .w16 (s.pc + 2)) ∧
      ∀ v, t.sys.showsWord (addr24 s.pbr (a + s.x)) (addr24 s.pbr (a + s.x + 1)) v → t.pc = v) ∧
    (∀ a, ∃ t, exec (.jsl a) s = .next t ∧
      t = { s with sp := s.spFixed (s.sp - 3), pc := a.off, pbr := a.bank, sys := t.sys } ∧
      s.stores t 3 (fun k => addr24 0 (s.sp - BitVec.ofNat 16 k))
        (fun k => if k = 0 then s.pbr else pushedByte .w16 (s.pc + 3) (k - 1)))

/-- R304, R305, R70: RTS and RTL go to the pulled address plus 1, RTL in the pulled bank. RTL's stack bytes in emulation mode are the
model's choice at the page-1 edge (D15, log 14). -/
def Obligations.ReturnsPullAddress : Prop :=
  ∀ s : State,
    (∃ t, exec .rts s = .next t ∧ t = { s with sp := s.spUp 2, pc := t.pc, sys := t.sys } ∧ s.writesNothing t ∧
      ∀ v, s.sys.showsWord (s.stackAbove 1) (s.stackAbove 2) v → t.pc = v + 1) ∧
    (∃ t, exec .rtl s = .next t ∧ t = { s with sp := s.spFixed (s.sp + 3), pc := t.pc, pbr := t.pbr, sys := t.sys } ∧
      s.writesNothing t ∧
      ∀ v bank, s.sys.showsWord (addr24 0 (s.sp + 1)) (addr24 0 (s.sp + 2)) v → s.sys.peek (addr24 0 (s.sp + 3)) = some bank →
        t.pc = v + 1 ∧ t.pbr = bank)

/-- R302 to R305: a call on a stack in RAM followed at once by its return comes back to the instruction after the call, with `S` and the
bank as they were: JSR and RTS in both modes, JSL and RTL in native mode. -/
def Obligations.CallThenReturn : Prop :=
  ∀ (s : State) (a : Word) (l : Addr), (∀ k < 3, ∃ j, route s.sys.romMap (s.stackBelow k) = .ram j) →
    (∃ t u, exec (.jsrAbs a) s = .next t ∧ exec .rts t = .next u ∧ u.pc = s.pc + 3 ∧ u.pbr = s.pbr ∧ u.sp = s.sp) ∧
    (s.e = false →
      ∃ t u, exec (.jsl l) s = .next t ∧ exec .rtl t = .next u ∧ u.pc = s.pc + 4 ∧ u.pbr = s.pbr ∧ u.sp = s.sp)

/-! ### Compares -/

/-- R320 to R322: CMP, CPX, CPY in every operand form, with exact numbers: C when the register is not below the operand, Z when equal, N
the top bit of the difference modulo `2^w`; nothing else changes. -/
def Obligations.CompareFlags : Prop :=
  ∀ (q : Source) (i : Instr) (s : State) (w : Width) (r : Word),
    (cmpOf q = some i ∧ w = s.wA ∧ r = s.acc w) ∨ (cpxOf q = some i ∧ w = s.wX ∧ r = trunc w s.x) ∨
      (cpyOf q = some i ∧ w = s.wX ∧ r = trunc w s.y) →
    ∃ t, exec i s = .next t ∧ (t.flag .c = true ↔ (q.read w s).1.toNat ≤ r.toNat) ∧
      (t.flag .z = true ↔ r.toNat = (q.read w s).1.toNat) ∧
      (t.flag .n = true ↔
        (2 : Int) ^ (widthBits w - 1) ≤ ((r.toNat : Int) - (q.read w s).1.toNat) % 2 ^ widthBits w) ∧
      s.keepsFlags t [.n, .z, .c] ∧ t = { s with p := t.p, pc := s.pc + BitVec.ofNat 16 (q.length w), sys := t.sys } ∧
      s.writesNothing t

/-! ### System instructions and exceptions -/

/-- R330 to R334: NOP and WDM only pass, STP stops, WAI waits, XBA swaps the two bytes of `C` and sets N and Z from the new low one; their
opcodes. That WDM executes as a two-byte no-operation is the spec's decision D22 (log 22). -/
def Obligations.NopWdmStpWaiXba : Prop :=
  Instr.opcode .nop = 0xEA ∧ (∀ g, Instr.opcode (.wdm g) = 0x42) ∧ Instr.opcode .stp = 0xDB ∧ Instr.opcode .wai = 0xCB ∧
  Instr.opcode .xba = 0xEB ∧
  ∀ s : State, exec .nop s = .next { s with pc := s.pc + 1 } ∧ (∀ g, exec (.wdm g) s = .next { s with pc := s.pc + 2 }) ∧
    exec .stp s = .next { s with stopped := true, pc := s.pc + 1 } ∧
    exec .wai s = .next { s with waiting := true, pc := s.pc + 1 } ∧
    ∃ t, exec .xba s = .next t ∧ lo8 t.c = hi8 s.c ∧ hi8 t.c = lo8 s.c ∧ t.flag .n = (hi8 s.c).getLsbD 7 ∧
      t.flag .z = decide (hi8 s.c = 0) ∧ s.keepsFlags t [.n, .z] ∧ t = { s with c := t.c, p := t.p, pc := s.pc + 1 }

/-- R335 to R337, R41: XCE swaps `P.c` and `E`; REP clears and SEP sets the selected bits; then in emulation mode `P.m` and `P.x` are 1 and
`SH` is `$01`, and with `P.x = 1` the index high bytes are 0; nothing else changes. -/
def Obligations.ModeAndStatusBits : Prop :=
  ∀ (s : State) (i : Instr) (e : Bool) (want : Flag → Bool),
    (i = .xce ∧ e = s.flag .c ∧ want = (fun f => if f = .c then s.e else s.flag f)) ∨
    (∃ k : Byte, i = .rep k ∧ e = s.e ∧ want = fun f => s.flag f && !k.getLsbD f.index) ∨
    (∃ k : Byte, i = .sep k ∧ e = s.e ∧ want = fun f => s.flag f || k.getLsbD f.index) →
    ∃ t, exec i s = .next t ∧ t.e = e ∧
      (∀ f, t.flag f = if f = .m ∨ f = .x then e || want f else want f) ∧
      t.sp = (if e then join16 1 (lo8 s.sp) else s.sp) ∧
      t.x = (if t.flag .x then zext16 (lo8 s.x) else s.x) ∧ t.y = (if t.flag .x then zext16 (lo8 s.y) else s.y) ∧
      t = { s with p := t.p, e := t.e, sp := t.sp, x := t.x, y := t.y, pc := s.pc + if i = .xce then 1 else 2 }

/-- R338 to R344: each flag instruction writes its one flag, and nothing else but `PC` changes; their opcodes. -/
def Obligations.FlagInstructions : Prop :=
  ∀ (i : Instr) (op : Byte) (f : Flag) (b : Bool),
    (i, op, f, b) ∈ [(Instr.clc, (0x18 : Byte), Flag.c, false), (.sec, 0x38, .c, true), (.cli, 0x58, .i, false),
      (.sei, 0x78, .i, true), (.cld, 0xD8, .d, false), (.sed, 0xF8, .d, true), (.clv, 0xB8, .v, false)] →
    i.opcode = op ∧ ∀ s : State, ∃ t, exec i s = .next t ∧ t.flag f = b ∧ s.keepsFlags t [f] ∧
      t = { s with p := t.p, pc := s.pc + 1 }

/-- R345, R346, R380, R382, R37: BRK and COP enter their handlers with the address after the signature byte as return address; their
opcodes and vectors, and the status pushed in emulation mode. Where a pushed byte falls on a `Bus` register, that RAM and ROM are left
alone rests on log 7, the model's choice: R75 says that such a write may have effects anywhere in the platform. -/
def Obligations.SoftwareInterrupts : Prop :=
  vectorOffset .cop false = 0xFFE4 ∧ vectorOffset .brk false = 0xFFE6 ∧ vectorOffset .cop true = 0xFFF4 ∧
  vectorOffset .brk true = 0xFFFE ∧ (∀ p, pushedStatus .brk true p = p ∧ pushedStatus .cop true p = p) ∧
  ∀ (s : State) (g : Byte), (Instr.brk g).opcode = 0x00 ∧ (Instr.cop g).opcode = 0x02 ∧
    (∃ t, exec (.brk g) s = .next t ∧ s.entersHandler t .brk (s.pc + 2)) ∧
    (∃ t, exec (.cop g) s = .next t ∧ s.entersHandler t .cop (s.pc + 2))

/-- R375 to R377, R380 to R382, R37: at a boundary with no reset asked for, in a processor that is not stopped, a pending NMI is taken
before anything else, and an asserted IRQ with `P.i = 0` before the next instruction; either ends a wait. Their vectors, and the status
pushed in emulation mode. Where a pushed byte falls on a `Bus` register, that RAM and ROM are left alone rests on log 7, the model's
choice: R75 says that such a write may have effects anywhere in the platform. -/
def Obligations.HardwareInterrupts : Prop :=
  vectorOffset .nmi false = 0xFFEA ∧ vectorOffset .irq false = 0xFFEE ∧ vectorOffset .nmi true = 0xFFFA ∧
  vectorOffset .irq true = 0xFFFE ∧ (∀ p, pushedStatus .nmi true p = p &&& 0xEF ∧ pushedStatus .irq true p = p &&& 0xEF) ∧
  ∀ s : State, s.resetRequested = false → s.stopped = false →
    (s.sample.nmiPending = true →
      ∃ t, step s = .next t ∧ ((s.sample.setWaiting false).setNmiPending false).entersHandler t .nmi s.pc) ∧
    (s.sample.nmiPending = false → s.sample.irqLine = true → s.flag .i = false →
      ∃ t, step s = .next t ∧ (s.sample.setWaiting false).entersHandler t .irq s.pc)

/-- R306, R385, R41, R70: RTI pulls `P`, then `PC`, and in native mode `PBR`; in emulation mode `P.m` and `P.x` stay 1. The premise is the
emulation-mode invariant of `S` (R39), which every step keeps. -/
def Obligations.RtiRestores : Prop :=
  ∀ s : State, (s.e = true → hi8 s.sp = 1) →
    ∃ t, exec .rti s = .next t ∧ s.writesNothing t ∧ t.sp = s.spUp (if s.e then 3 else 4) ∧
      (∀ b, s.sys.peek (s.stackAbove 1) = some b →
        ∀ f, t.flag f = if f = .m ∨ f = .x then s.e || b.getLsbD f.index else b.getLsbD f.index) ∧
      (∀ v, s.sys.showsWord (s.stackAbove 2) (s.stackAbove 3) v → t.pc = v) ∧
      (s.e = true → t.pbr = s.pbr) ∧ (∀ k, s.e = false → s.sys.peek (s.stackAbove 4) = some k → t.pbr = k) ∧
      t.x = (if t.flag .x then zext16 (lo8 s.x) else s.x) ∧ t.y = (if t.flag .x then zext16 (lo8 s.y) else s.y) ∧
      t = { s with p := t.p, x := t.x, y := t.y, sp := t.sp, pc := t.pc, pbr := t.pbr, sys := t.sys }

/-- R380, R385: in native mode, with the frame in RAM, an RTI at the start of an NMI handler resumes what was interrupted: every register and
flag is as it was. -/
def Obligations.InterruptThenRti : Prop :=
  ∀ s : State, s.e = false → s.indexInv → s.resetRequested = false → s.stopped = false → s.sample.nmiPending = true →
    (∀ k < 4, ∃ j, route s.sys.romMap (s.stackBelow k) = .ram j) →
    ∃ t u, step s = .next t ∧ exec .rti t = .next u ∧
      u = { s.sample with waiting := false, nmiPending := false, sys := u.sys }

/-- R372, R378, R381: a stopped processor does nothing until a reset is asked for, whatever requests come: only the request fields of the
boundary change. A waiting one with no request stays as it is, and a masked IRQ lets it go on without an interrupt. -/
def Obligations.StoppedAndWaiting : Prop :=
  ∀ s : State, s.resetRequested = false →
    (s.stopped = true → step s = .next { s with
      inputs := s.inputs.tail, irqLine := s.sample.irqLine, nmiPending := s.sample.nmiPending }) ∧
    (s.stopped = false → s.waiting = true → s.sample.nmiPending = false →
      (s.sample.irqLine = false → step s = .next s.sample) ∧
      (s.sample.irqLine = true → s.flag .i = true → step s = .next (s.sample.setWaiting false)))

/-! ### Block moves -/

/-- R360 to R362: one execution of MVN or MVP moves one byte, counts `X` and `Y` at the index width and `C` at 16 bits, makes `DBR` the
destination bank, and leaves `PC` on the instruction until `C` has counted past 0; no flag changes. Where a stored byte falls on a `Bus`
register, that RAM and ROM are left alone rests on log 7, the model's choice: R75 says that such a write may have effects anywhere in the
platform. -/
def Obligations.BlockMoveByte : Prop :=
  ∀ (s : State) (dst src : Byte) (i : Instr) (δ : Int), (i = .mvn dst src ∧ δ = 1) ∨ (i = .mvp dst src ∧ δ = -1) →
    ∃ t, exec i s = .next t ∧ (t.x.toNat : Int) = (s.x.toNat + δ) % 2 ^ widthBits s.wX ∧
      (t.y.toNat : Int) = (s.y.toNat + δ) % 2 ^ widthBits s.wX ∧ t.c = s.c - 1 ∧ t.dbr = dst ∧
      t.pc = (if s.c = 0 then s.pc + 3 else s.pc) ∧
      t = { s with x := t.x, y := t.y, c := t.c, dbr := t.dbr, pc := t.pc, sys := t.sys } ∧
      s.stores t 1 (fun _ => addr24 dst s.y) (fun _ => s.readByte (addr24 src s.x)) ∧
      ∀ b, s.sys.peek (addr24 src s.x) = some b → s.readByte (addr24 src s.x) = b

/-- R362: repeated until it ends, MVN or MVP is executed `C + 1` times; then `C = $FFFF`, `DBR` is the destination bank, `PC` is after the
instruction, and `X` and `Y` have moved by `C + 1` in its direction modulo `2^wX`. -/
def Obligations.WholeBlockMove : Prop :=
  ∀ (s : State) (dst src : Byte) (i : Instr) (δ : Int), (i = .mvn dst src ∧ δ = 1) ∨ (i = .mvp dst src ∧ δ = -1) →
    ∃ t, repeatExec i (s.c.toNat + 1) s = .next t ∧ t.c = 0xFFFF ∧ t.dbr = dst ∧ t.pc = s.pc + 3 ∧
      (t.x.toNat : Int) = (s.x.toNat + δ * (s.c.toNat + 1)) % 2 ^ widthBits s.wX ∧
      (t.y.toNat : Int) = (s.y.toNat + δ * (s.c.toNat + 1)) % 2 ^ widthBits s.wX ∧
      t = { s with x := t.x, y := t.y, c := t.c, dbr := t.dbr, pc := t.pc, sys := t.sys } ∧
      ∀ n < s.c.toNat + 1, ∃ u, repeatExec i n s = .next u ∧ u.pc = s.pc

/-! ### Memory and the platform -/

/-- R62, R74, R77, R78: offsets below `$2000` of every system bank are the first 8 KB of `$7E`; a RAM byte shows what was written last, through
every address that reaches it, and every other byte what it did; a write to ROM changes nothing. -/
def Obligations.RamAndRom : Prop :=
  ∀ (y : System) (a : Addr) (v : Byte),
    (∀ (bank : Byte) (off : Word), bank.toNat < 0x40 ∨ (0x80 ≤ bank.toNat ∧ bank.toNat < 0xC0) → off.toNat < 0x2000 →
      y.cell (addr24 bank off) = y.cell (addr24 0x7E off) ∧ (y.cell (addr24 bank off)).isSome = true) ∧
    (∀ k, route y.romMap a = .ram k → ∀ b, (y.write8 a v).peek b = if y.cell b = some k then some v else y.peek b) ∧
    (∀ k, route y.romMap a = .rom k → y.write8 a v = y) ∧
    (∀ (bank : Byte) (off : Word), bank.toNat < 0x40 ∨ (0x80 ≤ bank.toNat ∧ bank.toNat < 0xC0) → 0x8000 ≤ off.toNat →
      route y.romMap (addr24 bank off) = .rom (addr24 bank off).toNat)

/-- The model's form of a bus access (R75, R76, D9 say only that a read is a draw and a write a recorded event): an access outside RAM and
ROM is added to a history, newest first, and a write there changes no byte of RAM or ROM (the DMA start register apart) and stays latched
in its register. That the history is state is log 6 and log 28, that a register keeps its byte and that RAM and ROM are left alone by a
write to a `Bus` register is log 7, all the model's choice: R75 says that such a write may have effects anywhere in the platform. -/
def Obligations.BusAccessesRecorded : Prop :=
  ∀ (y : System) (a : Addr) (v : Byte), y.cell a = none →
    (y.afterRead a) = { y with busLog := .read a :: y.busLog } ∧
    (route y.romMap a ≠ .io 0x420B → (y.write8 a v).busLog = .write a v :: y.busLog ∧ (y.write8 a v).mem = y.mem ∧
      ∀ r, route y.romMap a = .io r → (y.write8 a v).ioGet r = v)

/-- R393, R436: a write to `$4203` multiplies, one to `$4206` divides; the result is what `$4214` to `$4217` read once five, or nine,
instructions have started. Counting the delay in instructions is the model's choice (log 9). -/
def Obligations.MultiplierAndDivider : Prop :=
  ∀ (y : System) (v : Byte) (n : Nat),
    (5 ≤ n → ∀ z, z = System.tickMath^[n] (y.write8 0x004203 v) →
      (z.readByte 0x004217).toNat * 256 + (z.readByte 0x004216).toNat = (y.ioGet 0x4202).toNat * v.toNat) ∧
    (9 ≤ n → ∀ z, z = System.tickMath^[n] (y.write8 0x004206 v) →
      let dividend := (y.ioGet 0x4205).toNat * 256 + (y.ioGet 0x4204).toNat
      (z.readByte 0x004215).toNat * 256 + (z.readByte 0x004214).toNat = (if v = 0 then 0xFFFF else dividend / v.toNat) ∧
      (z.readByte 0x004217).toNat * 256 + (z.readByte 0x004216).toNat = if v = 0 then dividend else dividend % v.toNat)

/-- R394, R397 to R399: a write of one channel's bit to `$420B` moves the channel's whole count: with the CPU side in RAM or ROM and the
direction to the port, the bytes go in order to the port registers of the mode's pattern; then the count is 0, the source address past the
last byte, and `$420B` reads as clear. Pattern and wrap are the hardware column of R398 and the model's choice (log 10). That RAM and ROM
are left alone by the writes to the ports is the model's choice too (log 7), and so is the wrap of the ports inside `$21xx` (log 30). -/
def Obligations.DmaToPort : Prop :=
  ∀ (y : System) (n : Nat) (start : Byte), n < 8 → start = BitVec.twoPow 8 n →
    ∀ ch z, ch = (y.store8 0x00420B start).dmaChannel n → z = y.write8 0x00420B start →
      z.ioGet 0x420B = 0 ∧ z.ioGet (0x4305 + 16 * n) = 0 ∧ z.ioGet (0x4306 + 16 * n) = 0 ∧
      join16 (z.ioGet (0x4303 + 16 * n)) (z.ioGet (0x4302 + 16 * n)) = ch.sourceAt ch.count ∧
      (ch.toCpu = false → (∀ i < ch.count, (y.cell (ch.cpuSide i)).isSome = true) →
        z.mem = y.mem ∧
        z.busLog = ((List.range ch.count).reverse.map
          (fun i => BusEvent.write (ch.portSide i) (y.readByte (ch.cpuSide i)))) ++ .write 0x00420B start :: y.busLog)
end

