-- ==== Sys2Proof/Laws/Cases.lean ====
section
/-! SUPPORT. What executing an instruction can do, said once: one case per mnemonic, or per opcode where the forms differ. -/

namespace Sys2Proof.Machine

/-- Executing `i` from `s` leaves this state. -/
inductive ExecCase (s : State) : Instr → State → Prop where
  | brk (sig : Byte) : ExecCase s (.brk sig) (s.interrupt .brk (s.pc + 2))
  | ora {q : Source} {i : Instr} (h : oraOf q = some i) : ExecCase s i (s.opOra q)
  | cop (sig : Byte) : ExecCase s (.cop sig) (s.interrupt .cop (s.pc + 2))
  | tsb {q : Mode} {i : Instr} (h : tsbOf q = some i) : ExecCase s i (s.opTsb q)
  | asl {q : Place} {i : Instr} (h : aslOf q = some i) : ExecCase s i (s.opAsl q)
  | php : ExecCase s .php (s.opPhp)
  | phd : ExecCase s .phd (s.opPhd)
  | bpl (disp : Byte) : ExecCase s (.bpl disp) (s.branch (!s.flag .n) disp)
  | trb {q : Mode} {i : Instr} (h : trbOf q = some i) : ExecCase s i (s.opTrb q)
  | clc : ExecCase s .clc ((s.setFlag .c false).advance 1)
  | inc {q : Place} {i : Instr} (h : incOf q = some i) : ExecCase s i (s.opInc q)
  | tcs : ExecCase s .tcs (s.opTcs)
  | jsrAbs (a : Word) : ExecCase s (.jsrAbs a) (s.opJsr a)
  | and {q : Source} {i : Instr} (h : andOf q = some i) : ExecCase s i (s.opAnd q)
  | jsl (a : Addr) : ExecCase s (.jsl a) (s.opJsl a)
  | bit {q : Source} {i : Instr} (h : bitOf q = some i) : ExecCase s i (s.opBit q)
  | rol {q : Place} {i : Instr} (h : rolOf q = some i) : ExecCase s i (s.opRol q)
  | plp : ExecCase s .plp (s.opPlp)
  | pld : ExecCase s .pld (s.opPld)
  | bmi (disp : Byte) : ExecCase s (.bmi disp) (s.branch (s.flag .n) disp)
  | sec : ExecCase s .sec ((s.setFlag .c true).advance 1)
  | dec {q : Place} {i : Instr} (h : decOf q = some i) : ExecCase s i (s.opDec q)
  | tsc : ExecCase s .tsc (s.opTsc)
  | rti : ExecCase s .rti (s.returnFromInterrupt)
  | eor {q : Source} {i : Instr} (h : eorOf q = some i) : ExecCase s i (s.opEor q)
  | wdm (sig : Byte) : ExecCase s (.wdm sig) (s.advance 2)
  | mvp (dst : Byte) (src : Byte) : ExecCase s (.mvp dst src) (s.moveBlock (-1) dst src)
  | lsr {q : Place} {i : Instr} (h : lsrOf q = some i) : ExecCase s i (s.opLsr q)
  | pha : ExecCase s .pha (s.opPha)
  | phk : ExecCase s .phk (s.opPhk)
  | jmpAbs (a : Word) : ExecCase s (.jmpAbs a) (s.opJmp a)
  | bvc (disp : Byte) : ExecCase s (.bvc disp) (s.branch (!s.flag .v) disp)
  | mvn (dst : Byte) (src : Byte) : ExecCase s (.mvn dst src) (s.moveBlock 1 dst src)
  | cli : ExecCase s .cli ((s.setFlag .i false).advance 1)
  | phy : ExecCase s .phy (s.opPhy)
  | tcd : ExecCase s .tcd (s.opTcd)
  | jmlLong (a : Addr) : ExecCase s (.jmlLong a) (s.opJml a)
  | rts : ExecCase s .rts (s.opRts)
  | adc {q : Source} {i : Instr} (h : adcOf q = some i) : ExecCase s i (s.opAdc q)
  | per (disp : Word) : ExecCase s (.per disp) (s.opPer disp)
  | stz {q : Mode} {i : Instr} (h : stzOf q = some i) : ExecCase s i (s.opStz q)
  | ror {q : Place} {i : Instr} (h : rorOf q = some i) : ExecCase s i (s.opRor q)
  | pla : ExecCase s .pla (s.opPla)
  | rtl : ExecCase s .rtl (s.opRtl)
  | jmpAbsInd (a : Word) : ExecCase s (.jmpAbsInd a) (s.opJmpInd a)
  | bvs (disp : Byte) : ExecCase s (.bvs disp) (s.branch (s.flag .v) disp)
  | sei : ExecCase s .sei ((s.setFlag .i true).advance 1)
  | ply : ExecCase s .ply (s.opPly)
  | tdc : ExecCase s .tdc (s.opTdc)
  | jmpAbsIndX (a : Word) : ExecCase s (.jmpAbsIndX a) (s.opJmpIndX a)
  | bra (disp : Byte) : ExecCase s (.bra disp) (s.branch true disp)
  | sta {q : Mode} {i : Instr} (h : staOf q = some i) : ExecCase s i (s.opSta q)
  | brl (disp : Word) : ExecCase s (.brl disp) (s.branchLong disp)
  | sty {q : Mode} {i : Instr} (h : styOf q = some i) : ExecCase s i (s.opSty q)
  | stx {q : Mode} {i : Instr} (h : stxOf q = some i) : ExecCase s i (s.opStx q)
  | dey : ExecCase s .dey (s.opDey)
  | txa : ExecCase s .txa (s.opTxa)
  | phb : ExecCase s .phb (s.opPhb)
  | bcc (disp : Byte) : ExecCase s (.bcc disp) (s.branch (!s.flag .c) disp)
  | tya : ExecCase s .tya (s.opTya)
  | txs : ExecCase s .txs (s.opTxs)
  | txy : ExecCase s .txy (s.opTxy)
  | ldy {q : Source} {i : Instr} (h : ldyOf q = some i) : ExecCase s i (s.opLdy q)
  | lda {q : Source} {i : Instr} (h : ldaOf q = some i) : ExecCase s i (s.opLda q)
  | ldx {q : Source} {i : Instr} (h : ldxOf q = some i) : ExecCase s i (s.opLdx q)
  | tay : ExecCase s .tay (s.opTay)
  | tax : ExecCase s .tax (s.opTax)
  | plb : ExecCase s .plb (s.opPlb)
  | bcs (disp : Byte) : ExecCase s (.bcs disp) (s.branch (s.flag .c) disp)
  | clv : ExecCase s .clv ((s.setFlag .v false).advance 1)
  | tsx : ExecCase s .tsx (s.opTsx)
  | tyx : ExecCase s .tyx (s.opTyx)
  | cpy {q : Source} {i : Instr} (h : cpyOf q = some i) : ExecCase s i (s.opCpy q)
  | cmp {q : Source} {i : Instr} (h : cmpOf q = some i) : ExecCase s i (s.opCmp q)
  | rep (mask : Byte) : ExecCase s (.rep mask) (s.opRep mask)
  | iny : ExecCase s .iny (s.opIny)
  | dex : ExecCase s .dex (s.opDex)
  | wai : ExecCase s .wai (s.opWai)
  | bne (disp : Byte) : ExecCase s (.bne disp) (s.branch (!s.flag .z) disp)
  | pei (d : Byte) : ExecCase s (.pei d) (s.opPei d)
  | cld : ExecCase s .cld ((s.setFlag .d false).advance 1)
  | phx : ExecCase s .phx (s.opPhx)
  | stp : ExecCase s .stp (s.opStp)
  | jmlAbsIndLong (a : Word) : ExecCase s (.jmlAbsIndLong a) (s.opJmlInd a)
  | cpx {q : Source} {i : Instr} (h : cpxOf q = some i) : ExecCase s i (s.opCpx q)
  | sbc {q : Source} {i : Instr} (h : sbcOf q = some i) : ExecCase s i (s.opSbc q)
  | sep (mask : Byte) : ExecCase s (.sep mask) (s.opSep mask)
  | inx : ExecCase s .inx (s.opInx)
  | nop : ExecCase s .nop (s.advance 1)
  | xba : ExecCase s .xba (s.opXba)
  | beq (disp : Byte) : ExecCase s (.beq disp) (s.branch (s.flag .z) disp)
  | pea (v : Word) : ExecCase s (.pea v) (s.opPea v)
  | sed : ExecCase s .sed ((s.setFlag .d true).advance 1)
  | plx : ExecCase s .plx (s.opPlx)
  | xce : ExecCase s .xce (s.opXce)
  | jsrAbsIndX (a : Word) : ExecCase s (.jsrAbsIndX a) (s.opJsrIndX a)

/-- Every instruction runs one of the cases. -/
theorem exec_case (i : Instr) (s : State) : ∃ t, exec i s = .next t ∧ ExecCase s i t := by
  cases i with
  | brk sig => exact ⟨_, rfl, .brk _⟩
  | oraDpIndX d => exact ⟨_, rfl, .ora (q := (.mem (.dpIndX d))) rfl⟩
  | cop sig => exact ⟨_, rfl, .cop _⟩
  | oraSr d => exact ⟨_, rfl, .ora (q := (.mem (.sr d))) rfl⟩
  | tsbDp d => exact ⟨_, rfl, .tsb (q := (.dp d)) rfl⟩
  | oraDp d => exact ⟨_, rfl, .ora (q := (.mem (.dp d))) rfl⟩
  | aslDp d => exact ⟨_, rfl, .asl (q := (.mem (.dp d))) rfl⟩
  | oraDpIndLong d => exact ⟨_, rfl, .ora (q := (.mem (.dpIndLong d))) rfl⟩
  | php => exact ⟨_, rfl, .php⟩
  | oraImm v => exact ⟨_, rfl, .ora (q := (.imm v)) rfl⟩
  | aslAcc => exact ⟨_, rfl, .asl (q := .acc) rfl⟩
  | phd => exact ⟨_, rfl, .phd⟩
  | tsbAbs a => exact ⟨_, rfl, .tsb (q := (.abs a)) rfl⟩
  | oraAbs a => exact ⟨_, rfl, .ora (q := (.mem (.abs a))) rfl⟩
  | aslAbs a => exact ⟨_, rfl, .asl (q := (.mem (.abs a))) rfl⟩
  | oraLong a => exact ⟨_, rfl, .ora (q := (.mem (.long a))) rfl⟩
  | bpl disp => exact ⟨_, rfl, .bpl _⟩
  | oraDpIndY d => exact ⟨_, rfl, .ora (q := (.mem (.dpIndY d))) rfl⟩
  | oraDpInd d => exact ⟨_, rfl, .ora (q := (.mem (.dpInd d))) rfl⟩
  | oraSrIndY d => exact ⟨_, rfl, .ora (q := (.mem (.srIndY d))) rfl⟩
  | trbDp d => exact ⟨_, rfl, .trb (q := (.dp d)) rfl⟩
  | oraDpX d => exact ⟨_, rfl, .ora (q := (.mem (.dpX d))) rfl⟩
  | aslDpX d => exact ⟨_, rfl, .asl (q := (.mem (.dpX d))) rfl⟩
  | oraDpIndLongY d => exact ⟨_, rfl, .ora (q := (.mem (.dpIndLongY d))) rfl⟩
  | clc => exact ⟨_, rfl, .clc⟩
  | oraAbsY a => exact ⟨_, rfl, .ora (q := (.mem (.absY a))) rfl⟩
  | incAcc => exact ⟨_, rfl, .inc (q := .acc) rfl⟩
  | tcs => exact ⟨_, rfl, .tcs⟩
  | trbAbs a => exact ⟨_, rfl, .trb (q := (.abs a)) rfl⟩
  | oraAbsX a => exact ⟨_, rfl, .ora (q := (.mem (.absX a))) rfl⟩
  | aslAbsX a => exact ⟨_, rfl, .asl (q := (.mem (.absX a))) rfl⟩
  | oraLongX a => exact ⟨_, rfl, .ora (q := (.mem (.longX a))) rfl⟩
  | jsrAbs a => exact ⟨_, rfl, .jsrAbs _⟩
  | andDpIndX d => exact ⟨_, rfl, .and (q := (.mem (.dpIndX d))) rfl⟩
  | jsl a => exact ⟨_, rfl, .jsl _⟩
  | andSr d => exact ⟨_, rfl, .and (q := (.mem (.sr d))) rfl⟩
  | bitDp d => exact ⟨_, rfl, .bit (q := (.mem (.dp d))) rfl⟩
  | andDp d => exact ⟨_, rfl, .and (q := (.mem (.dp d))) rfl⟩
  | rolDp d => exact ⟨_, rfl, .rol (q := (.mem (.dp d))) rfl⟩
  | andDpIndLong d => exact ⟨_, rfl, .and (q := (.mem (.dpIndLong d))) rfl⟩
  | plp => exact ⟨_, rfl, .plp⟩
  | andImm v => exact ⟨_, rfl, .and (q := (.imm v)) rfl⟩
  | rolAcc => exact ⟨_, rfl, .rol (q := .acc) rfl⟩
  | pld => exact ⟨_, rfl, .pld⟩
  | bitAbs a => exact ⟨_, rfl, .bit (q := (.mem (.abs a))) rfl⟩
  | andAbs a => exact ⟨_, rfl, .and (q := (.mem (.abs a))) rfl⟩
  | rolAbs a => exact ⟨_, rfl, .rol (q := (.mem (.abs a))) rfl⟩
  | andLong a => exact ⟨_, rfl, .and (q := (.mem (.long a))) rfl⟩
  | bmi disp => exact ⟨_, rfl, .bmi _⟩
  | andDpIndY d => exact ⟨_, rfl, .and (q := (.mem (.dpIndY d))) rfl⟩
  | andDpInd d => exact ⟨_, rfl, .and (q := (.mem (.dpInd d))) rfl⟩
  | andSrIndY d => exact ⟨_, rfl, .and (q := (.mem (.srIndY d))) rfl⟩
  | bitDpX d => exact ⟨_, rfl, .bit (q := (.mem (.dpX d))) rfl⟩
  | andDpX d => exact ⟨_, rfl, .and (q := (.mem (.dpX d))) rfl⟩
  | rolDpX d => exact ⟨_, rfl, .rol (q := (.mem (.dpX d))) rfl⟩
  | andDpIndLongY d => exact ⟨_, rfl, .and (q := (.mem (.dpIndLongY d))) rfl⟩
  | sec => exact ⟨_, rfl, .sec⟩
  | andAbsY a => exact ⟨_, rfl, .and (q := (.mem (.absY a))) rfl⟩
  | decAcc => exact ⟨_, rfl, .dec (q := .acc) rfl⟩
  | tsc => exact ⟨_, rfl, .tsc⟩
  | bitAbsX a => exact ⟨_, rfl, .bit (q := (.mem (.absX a))) rfl⟩
  | andAbsX a => exact ⟨_, rfl, .and (q := (.mem (.absX a))) rfl⟩
  | rolAbsX a => exact ⟨_, rfl, .rol (q := (.mem (.absX a))) rfl⟩
  | andLongX a => exact ⟨_, rfl, .and (q := (.mem (.longX a))) rfl⟩
  | rti => exact ⟨_, rfl, .rti⟩
  | eorDpIndX d => exact ⟨_, rfl, .eor (q := (.mem (.dpIndX d))) rfl⟩
  | wdm sig => exact ⟨_, rfl, .wdm _⟩
  | eorSr d => exact ⟨_, rfl, .eor (q := (.mem (.sr d))) rfl⟩
  | mvp dst src => exact ⟨_, rfl, .mvp _ _⟩
  | eorDp d => exact ⟨_, rfl, .eor (q := (.mem (.dp d))) rfl⟩
  | lsrDp d => exact ⟨_, rfl, .lsr (q := (.mem (.dp d))) rfl⟩
  | eorDpIndLong d => exact ⟨_, rfl, .eor (q := (.mem (.dpIndLong d))) rfl⟩
  | pha => exact ⟨_, rfl, .pha⟩
  | eorImm v => exact ⟨_, rfl, .eor (q := (.imm v)) rfl⟩
  | lsrAcc => exact ⟨_, rfl, .lsr (q := .acc) rfl⟩
  | phk => exact ⟨_, rfl, .phk⟩
  | jmpAbs a => exact ⟨_, rfl, .jmpAbs _⟩
  | eorAbs a => exact ⟨_, rfl, .eor (q := (.mem (.abs a))) rfl⟩
  | lsrAbs a => exact ⟨_, rfl, .lsr (q := (.mem (.abs a))) rfl⟩
  | eorLong a => exact ⟨_, rfl, .eor (q := (.mem (.long a))) rfl⟩
  | bvc disp => exact ⟨_, rfl, .bvc _⟩
  | eorDpIndY d => exact ⟨_, rfl, .eor (q := (.mem (.dpIndY d))) rfl⟩
  | eorDpInd d => exact ⟨_, rfl, .eor (q := (.mem (.dpInd d))) rfl⟩
  | eorSrIndY d => exact ⟨_, rfl, .eor (q := (.mem (.srIndY d))) rfl⟩
  | mvn dst src => exact ⟨_, rfl, .mvn _ _⟩
  | eorDpX d => exact ⟨_, rfl, .eor (q := (.mem (.dpX d))) rfl⟩
  | lsrDpX d => exact ⟨_, rfl, .lsr (q := (.mem (.dpX d))) rfl⟩
  | eorDpIndLongY d => exact ⟨_, rfl, .eor (q := (.mem (.dpIndLongY d))) rfl⟩
  | cli => exact ⟨_, rfl, .cli⟩
  | eorAbsY a => exact ⟨_, rfl, .eor (q := (.mem (.absY a))) rfl⟩
  | phy => exact ⟨_, rfl, .phy⟩
  | tcd => exact ⟨_, rfl, .tcd⟩
  | jmlLong a => exact ⟨_, rfl, .jmlLong _⟩
  | eorAbsX a => exact ⟨_, rfl, .eor (q := (.mem (.absX a))) rfl⟩
  | lsrAbsX a => exact ⟨_, rfl, .lsr (q := (.mem (.absX a))) rfl⟩
  | eorLongX a => exact ⟨_, rfl, .eor (q := (.mem (.longX a))) rfl⟩
  | rts => exact ⟨_, rfl, .rts⟩
  | adcDpIndX d => exact ⟨_, rfl, .adc (q := (.mem (.dpIndX d))) rfl⟩
  | per disp => exact ⟨_, rfl, .per _⟩
  | adcSr d => exact ⟨_, rfl, .adc (q := (.mem (.sr d))) rfl⟩
  | stzDp d => exact ⟨_, rfl, .stz (q := (.dp d)) rfl⟩
  | adcDp d => exact ⟨_, rfl, .adc (q := (.mem (.dp d))) rfl⟩
  | rorDp d => exact ⟨_, rfl, .ror (q := (.mem (.dp d))) rfl⟩
  | adcDpIndLong d => exact ⟨_, rfl, .adc (q := (.mem (.dpIndLong d))) rfl⟩
  | pla => exact ⟨_, rfl, .pla⟩
  | adcImm v => exact ⟨_, rfl, .adc (q := (.imm v)) rfl⟩
  | rorAcc => exact ⟨_, rfl, .ror (q := .acc) rfl⟩
  | rtl => exact ⟨_, rfl, .rtl⟩
  | jmpAbsInd a => exact ⟨_, rfl, .jmpAbsInd _⟩
  | adcAbs a => exact ⟨_, rfl, .adc (q := (.mem (.abs a))) rfl⟩
  | rorAbs a => exact ⟨_, rfl, .ror (q := (.mem (.abs a))) rfl⟩
  | adcLong a => exact ⟨_, rfl, .adc (q := (.mem (.long a))) rfl⟩
  | bvs disp => exact ⟨_, rfl, .bvs _⟩
  | adcDpIndY d => exact ⟨_, rfl, .adc (q := (.mem (.dpIndY d))) rfl⟩
  | adcDpInd d => exact ⟨_, rfl, .adc (q := (.mem (.dpInd d))) rfl⟩
  | adcSrIndY d => exact ⟨_, rfl, .adc (q := (.mem (.srIndY d))) rfl⟩
  | stzDpX d => exact ⟨_, rfl, .stz (q := (.dpX d)) rfl⟩
  | adcDpX d => exact ⟨_, rfl, .adc (q := (.mem (.dpX d))) rfl⟩
  | rorDpX d => exact ⟨_, rfl, .ror (q := (.mem (.dpX d))) rfl⟩
  | adcDpIndLongY d => exact ⟨_, rfl, .adc (q := (.mem (.dpIndLongY d))) rfl⟩
  | sei => exact ⟨_, rfl, .sei⟩
  | adcAbsY a => exact ⟨_, rfl, .adc (q := (.mem (.absY a))) rfl⟩
  | ply => exact ⟨_, rfl, .ply⟩
  | tdc => exact ⟨_, rfl, .tdc⟩
  | jmpAbsIndX a => exact ⟨_, rfl, .jmpAbsIndX _⟩
  | adcAbsX a => exact ⟨_, rfl, .adc (q := (.mem (.absX a))) rfl⟩
  | rorAbsX a => exact ⟨_, rfl, .ror (q := (.mem (.absX a))) rfl⟩
  | adcLongX a => exact ⟨_, rfl, .adc (q := (.mem (.longX a))) rfl⟩
  | bra disp => exact ⟨_, rfl, .bra _⟩
  | staDpIndX d => exact ⟨_, rfl, .sta (q := (.dpIndX d)) rfl⟩
  | brl disp => exact ⟨_, rfl, .brl _⟩
  | staSr d => exact ⟨_, rfl, .sta (q := (.sr d)) rfl⟩
  | styDp d => exact ⟨_, rfl, .sty (q := (.dp d)) rfl⟩
  | staDp d => exact ⟨_, rfl, .sta (q := (.dp d)) rfl⟩
  | stxDp d => exact ⟨_, rfl, .stx (q := (.dp d)) rfl⟩
  | staDpIndLong d => exact ⟨_, rfl, .sta (q := (.dpIndLong d)) rfl⟩
  | dey => exact ⟨_, rfl, .dey⟩
  | bitImm v => exact ⟨_, rfl, .bit (q := (.imm v)) rfl⟩
  | txa => exact ⟨_, rfl, .txa⟩
  | phb => exact ⟨_, rfl, .phb⟩
  | styAbs a => exact ⟨_, rfl, .sty (q := (.abs a)) rfl⟩
  | staAbs a => exact ⟨_, rfl, .sta (q := (.abs a)) rfl⟩
  | stxAbs a => exact ⟨_, rfl, .stx (q := (.abs a)) rfl⟩
  | staLong a => exact ⟨_, rfl, .sta (q := (.long a)) rfl⟩
  | bcc disp => exact ⟨_, rfl, .bcc _⟩
  | staDpIndY d => exact ⟨_, rfl, .sta (q := (.dpIndY d)) rfl⟩
  | staDpInd d => exact ⟨_, rfl, .sta (q := (.dpInd d)) rfl⟩
  | staSrIndY d => exact ⟨_, rfl, .sta (q := (.srIndY d)) rfl⟩
  | styDpX d => exact ⟨_, rfl, .sty (q := (.dpX d)) rfl⟩
  | staDpX d => exact ⟨_, rfl, .sta (q := (.dpX d)) rfl⟩
  | stxDpY d => exact ⟨_, rfl, .stx (q := (.dpY d)) rfl⟩
  | staDpIndLongY d => exact ⟨_, rfl, .sta (q := (.dpIndLongY d)) rfl⟩
  | tya => exact ⟨_, rfl, .tya⟩
  | staAbsY a => exact ⟨_, rfl, .sta (q := (.absY a)) rfl⟩
  | txs => exact ⟨_, rfl, .txs⟩
  | txy => exact ⟨_, rfl, .txy⟩
  | stzAbs a => exact ⟨_, rfl, .stz (q := (.abs a)) rfl⟩
  | staAbsX a => exact ⟨_, rfl, .sta (q := (.absX a)) rfl⟩
  | stzAbsX a => exact ⟨_, rfl, .stz (q := (.absX a)) rfl⟩
  | staLongX a => exact ⟨_, rfl, .sta (q := (.longX a)) rfl⟩
  | ldyImm v => exact ⟨_, rfl, .ldy (q := (.imm v)) rfl⟩
  | ldaDpIndX d => exact ⟨_, rfl, .lda (q := (.mem (.dpIndX d))) rfl⟩
  | ldxImm v => exact ⟨_, rfl, .ldx (q := (.imm v)) rfl⟩
  | ldaSr d => exact ⟨_, rfl, .lda (q := (.mem (.sr d))) rfl⟩
  | ldyDp d => exact ⟨_, rfl, .ldy (q := (.mem (.dp d))) rfl⟩
  | ldaDp d => exact ⟨_, rfl, .lda (q := (.mem (.dp d))) rfl⟩
  | ldxDp d => exact ⟨_, rfl, .ldx (q := (.mem (.dp d))) rfl⟩
  | ldaDpIndLong d => exact ⟨_, rfl, .lda (q := (.mem (.dpIndLong d))) rfl⟩
  | tay => exact ⟨_, rfl, .tay⟩
  | ldaImm v => exact ⟨_, rfl, .lda (q := (.imm v)) rfl⟩
  | tax => exact ⟨_, rfl, .tax⟩
  | plb => exact ⟨_, rfl, .plb⟩
  | ldyAbs a => exact ⟨_, rfl, .ldy (q := (.mem (.abs a))) rfl⟩
  | ldaAbs a => exact ⟨_, rfl, .lda (q := (.mem (.abs a))) rfl⟩
  | ldxAbs a => exact ⟨_, rfl, .ldx (q := (.mem (.abs a))) rfl⟩
  | ldaLong a => exact ⟨_, rfl, .lda (q := (.mem (.long a))) rfl⟩
  | bcs disp => exact ⟨_, rfl, .bcs _⟩
  | ldaDpIndY d => exact ⟨_, rfl, .lda (q := (.mem (.dpIndY d))) rfl⟩
  | ldaDpInd d => exact ⟨_, rfl, .lda (q := (.mem (.dpInd d))) rfl⟩
  | ldaSrIndY d => exact ⟨_, rfl, .lda (q := (.mem (.srIndY d))) rfl⟩
  | ldyDpX d => exact ⟨_, rfl, .ldy (q := (.mem (.dpX d))) rfl⟩
  | ldaDpX d => exact ⟨_, rfl, .lda (q := (.mem (.dpX d))) rfl⟩
  | ldxDpY d => exact ⟨_, rfl, .ldx (q := (.mem (.dpY d))) rfl⟩
  | ldaDpIndLongY d => exact ⟨_, rfl, .lda (q := (.mem (.dpIndLongY d))) rfl⟩
  | clv => exact ⟨_, rfl, .clv⟩
  | ldaAbsY a => exact ⟨_, rfl, .lda (q := (.mem (.absY a))) rfl⟩
  | tsx => exact ⟨_, rfl, .tsx⟩
  | tyx => exact ⟨_, rfl, .tyx⟩
  | ldyAbsX a => exact ⟨_, rfl, .ldy (q := (.mem (.absX a))) rfl⟩
  | ldaAbsX a => exact ⟨_, rfl, .lda (q := (.mem (.absX a))) rfl⟩
  | ldxAbsY a => exact ⟨_, rfl, .ldx (q := (.mem (.absY a))) rfl⟩
  | ldaLongX a => exact ⟨_, rfl, .lda (q := (.mem (.longX a))) rfl⟩
  | cpyImm v => exact ⟨_, rfl, .cpy (q := (.imm v)) rfl⟩
  | cmpDpIndX d => exact ⟨_, rfl, .cmp (q := (.mem (.dpIndX d))) rfl⟩
  | rep mask => exact ⟨_, rfl, .rep _⟩
  | cmpSr d => exact ⟨_, rfl, .cmp (q := (.mem (.sr d))) rfl⟩
  | cpyDp d => exact ⟨_, rfl, .cpy (q := (.mem (.dp d))) rfl⟩
  | cmpDp d => exact ⟨_, rfl, .cmp (q := (.mem (.dp d))) rfl⟩
  | decDp d => exact ⟨_, rfl, .dec (q := (.mem (.dp d))) rfl⟩
  | cmpDpIndLong d => exact ⟨_, rfl, .cmp (q := (.mem (.dpIndLong d))) rfl⟩
  | iny => exact ⟨_, rfl, .iny⟩
  | cmpImm v => exact ⟨_, rfl, .cmp (q := (.imm v)) rfl⟩
  | dex => exact ⟨_, rfl, .dex⟩
  | wai => exact ⟨_, rfl, .wai⟩
  | cpyAbs a => exact ⟨_, rfl, .cpy (q := (.mem (.abs a))) rfl⟩
  | cmpAbs a => exact ⟨_, rfl, .cmp (q := (.mem (.abs a))) rfl⟩
  | decAbs a => exact ⟨_, rfl, .dec (q := (.mem (.abs a))) rfl⟩
  | cmpLong a => exact ⟨_, rfl, .cmp (q := (.mem (.long a))) rfl⟩
  | bne disp => exact ⟨_, rfl, .bne _⟩
  | cmpDpIndY d => exact ⟨_, rfl, .cmp (q := (.mem (.dpIndY d))) rfl⟩
  | cmpDpInd d => exact ⟨_, rfl, .cmp (q := (.mem (.dpInd d))) rfl⟩
  | cmpSrIndY d => exact ⟨_, rfl, .cmp (q := (.mem (.srIndY d))) rfl⟩
  | pei d => exact ⟨_, rfl, .pei _⟩
  | cmpDpX d => exact ⟨_, rfl, .cmp (q := (.mem (.dpX d))) rfl⟩
  | decDpX d => exact ⟨_, rfl, .dec (q := (.mem (.dpX d))) rfl⟩
  | cmpDpIndLongY d => exact ⟨_, rfl, .cmp (q := (.mem (.dpIndLongY d))) rfl⟩
  | cld => exact ⟨_, rfl, .cld⟩
  | cmpAbsY a => exact ⟨_, rfl, .cmp (q := (.mem (.absY a))) rfl⟩
  | phx => exact ⟨_, rfl, .phx⟩
  | stp => exact ⟨_, rfl, .stp⟩
  | jmlAbsIndLong a => exact ⟨_, rfl, .jmlAbsIndLong _⟩
  | cmpAbsX a => exact ⟨_, rfl, .cmp (q := (.mem (.absX a))) rfl⟩
  | decAbsX a => exact ⟨_, rfl, .dec (q := (.mem (.absX a))) rfl⟩
  | cmpLongX a => exact ⟨_, rfl, .cmp (q := (.mem (.longX a))) rfl⟩
  | cpxImm v => exact ⟨_, rfl, .cpx (q := (.imm v)) rfl⟩
  | sbcDpIndX d => exact ⟨_, rfl, .sbc (q := (.mem (.dpIndX d))) rfl⟩
  | sep mask => exact ⟨_, rfl, .sep _⟩
  | sbcSr d => exact ⟨_, rfl, .sbc (q := (.mem (.sr d))) rfl⟩
  | cpxDp d => exact ⟨_, rfl, .cpx (q := (.mem (.dp d))) rfl⟩
  | sbcDp d => exact ⟨_, rfl, .sbc (q := (.mem (.dp d))) rfl⟩
  | incDp d => exact ⟨_, rfl, .inc (q := (.mem (.dp d))) rfl⟩
  | sbcDpIndLong d => exact ⟨_, rfl, .sbc (q := (.mem (.dpIndLong d))) rfl⟩
  | inx => exact ⟨_, rfl, .inx⟩
  | sbcImm v => exact ⟨_, rfl, .sbc (q := (.imm v)) rfl⟩
  | nop => exact ⟨_, rfl, .nop⟩
  | xba => exact ⟨_, rfl, .xba⟩
  | cpxAbs a => exact ⟨_, rfl, .cpx (q := (.mem (.abs a))) rfl⟩
  | sbcAbs a => exact ⟨_, rfl, .sbc (q := (.mem (.abs a))) rfl⟩
  | incAbs a => exact ⟨_, rfl, .inc (q := (.mem (.abs a))) rfl⟩
  | sbcLong a => exact ⟨_, rfl, .sbc (q := (.mem (.long a))) rfl⟩
  | beq disp => exact ⟨_, rfl, .beq _⟩
  | sbcDpIndY d => exact ⟨_, rfl, .sbc (q := (.mem (.dpIndY d))) rfl⟩
  | sbcDpInd d => exact ⟨_, rfl, .sbc (q := (.mem (.dpInd d))) rfl⟩
  | sbcSrIndY d => exact ⟨_, rfl, .sbc (q := (.mem (.srIndY d))) rfl⟩
  | pea v => exact ⟨_, rfl, .pea _⟩
  | sbcDpX d => exact ⟨_, rfl, .sbc (q := (.mem (.dpX d))) rfl⟩
  | incDpX d => exact ⟨_, rfl, .inc (q := (.mem (.dpX d))) rfl⟩
  | sbcDpIndLongY d => exact ⟨_, rfl, .sbc (q := (.mem (.dpIndLongY d))) rfl⟩
  | sed => exact ⟨_, rfl, .sed⟩
  | sbcAbsY a => exact ⟨_, rfl, .sbc (q := (.mem (.absY a))) rfl⟩
  | plx => exact ⟨_, rfl, .plx⟩
  | xce => exact ⟨_, rfl, .xce⟩
  | jsrAbsIndX a => exact ⟨_, rfl, .jsrAbsIndX _⟩
  | sbcAbsX a => exact ⟨_, rfl, .sbc (q := (.mem (.absX a))) rfl⟩
  | incAbsX a => exact ⟨_, rfl, .inc (q := (.mem (.absX a))) rfl⟩
  | sbcLongX a => exact ⟨_, rfl, .sbc (q := (.mem (.longX a))) rfl⟩

theorem exec_case_of_next {i : Instr} {s t : State} (h : exec i s = .next t) : ExecCase s i t := by
  obtain ⟨u, hu, hc⟩ := exec_case i s
  rw [hu] at h; injection h with h; rwa [← h]

/-- A branch writes `PC` only (R280). -/
theorem State.branch_eq (s : State) (taken : Bool) (disp : Byte) : ∃ pc, s.branch taken disp = s.setPc pc := by
  unfold State.branch; split <;> exact ⟨_, rfl⟩

end Sys2Proof.Machine
end

