-- ==== Sys2Proof/Laws/State.lean ====
section
/-! SUPPORT. One lemma per field per update of the state, so that no proof unfolds a record update. -/

namespace Sys2Proof.Machine

variable (s : State)

section setC
variable (v : Word)
@[simp] theorem State.setC_c : (s.setC v).c = v := rfl
@[simp] theorem State.setC_x : (s.setC v).x = s.x := rfl
@[simp] theorem State.setC_y : (s.setC v).y = s.y := rfl
@[simp] theorem State.setC_sp : (s.setC v).sp = s.sp := rfl
@[simp] theorem State.setC_d : (s.setC v).d = s.d := rfl
@[simp] theorem State.setC_pc : (s.setC v).pc = s.pc := rfl
@[simp] theorem State.setC_dbr : (s.setC v).dbr = s.dbr := rfl
@[simp] theorem State.setC_pbr : (s.setC v).pbr = s.pbr := rfl
@[simp] theorem State.setC_p : (s.setC v).p = s.p := rfl
@[simp] theorem State.setC_e : (s.setC v).e = s.e := rfl
@[simp] theorem State.setC_stopped : (s.setC v).stopped = s.stopped := rfl
@[simp] theorem State.setC_waiting : (s.setC v).waiting = s.waiting := rfl
@[simp] theorem State.setC_nmiPending : (s.setC v).nmiPending = s.nmiPending := rfl
@[simp] theorem State.setC_irqLine : (s.setC v).irqLine = s.irqLine := rfl
@[simp] theorem State.setC_inputs : (s.setC v).inputs = s.inputs := rfl
@[simp] theorem State.setC_free : (s.setC v).free = s.free := rfl
@[simp] theorem State.setC_sys : (s.setC v).sys = s.sys := rfl
end setC

section setX
variable (v : Word)
@[simp] theorem State.setX_c : (s.setX v).c = s.c := rfl
@[simp] theorem State.setX_x : (s.setX v).x = v := rfl
@[simp] theorem State.setX_y : (s.setX v).y = s.y := rfl
@[simp] theorem State.setX_sp : (s.setX v).sp = s.sp := rfl
@[simp] theorem State.setX_d : (s.setX v).d = s.d := rfl
@[simp] theorem State.setX_pc : (s.setX v).pc = s.pc := rfl
@[simp] theorem State.setX_dbr : (s.setX v).dbr = s.dbr := rfl
@[simp] theorem State.setX_pbr : (s.setX v).pbr = s.pbr := rfl
@[simp] theorem State.setX_p : (s.setX v).p = s.p := rfl
@[simp] theorem State.setX_e : (s.setX v).e = s.e := rfl
@[simp] theorem State.setX_stopped : (s.setX v).stopped = s.stopped := rfl
@[simp] theorem State.setX_waiting : (s.setX v).waiting = s.waiting := rfl
@[simp] theorem State.setX_nmiPending : (s.setX v).nmiPending = s.nmiPending := rfl
@[simp] theorem State.setX_irqLine : (s.setX v).irqLine = s.irqLine := rfl
@[simp] theorem State.setX_inputs : (s.setX v).inputs = s.inputs := rfl
@[simp] theorem State.setX_free : (s.setX v).free = s.free := rfl
@[simp] theorem State.setX_sys : (s.setX v).sys = s.sys := rfl
end setX

section setY
variable (v : Word)
@[simp] theorem State.setY_c : (s.setY v).c = s.c := rfl
@[simp] theorem State.setY_x : (s.setY v).x = s.x := rfl
@[simp] theorem State.setY_y : (s.setY v).y = v := rfl
@[simp] theorem State.setY_sp : (s.setY v).sp = s.sp := rfl
@[simp] theorem State.setY_d : (s.setY v).d = s.d := rfl
@[simp] theorem State.setY_pc : (s.setY v).pc = s.pc := rfl
@[simp] theorem State.setY_dbr : (s.setY v).dbr = s.dbr := rfl
@[simp] theorem State.setY_pbr : (s.setY v).pbr = s.pbr := rfl
@[simp] theorem State.setY_p : (s.setY v).p = s.p := rfl
@[simp] theorem State.setY_e : (s.setY v).e = s.e := rfl
@[simp] theorem State.setY_stopped : (s.setY v).stopped = s.stopped := rfl
@[simp] theorem State.setY_waiting : (s.setY v).waiting = s.waiting := rfl
@[simp] theorem State.setY_nmiPending : (s.setY v).nmiPending = s.nmiPending := rfl
@[simp] theorem State.setY_irqLine : (s.setY v).irqLine = s.irqLine := rfl
@[simp] theorem State.setY_inputs : (s.setY v).inputs = s.inputs := rfl
@[simp] theorem State.setY_free : (s.setY v).free = s.free := rfl
@[simp] theorem State.setY_sys : (s.setY v).sys = s.sys := rfl
end setY

section setSp
variable (v : Word)
@[simp] theorem State.setSp_c : (s.setSp v).c = s.c := rfl
@[simp] theorem State.setSp_x : (s.setSp v).x = s.x := rfl
@[simp] theorem State.setSp_y : (s.setSp v).y = s.y := rfl
@[simp] theorem State.setSp_sp : (s.setSp v).sp = v := rfl
@[simp] theorem State.setSp_d : (s.setSp v).d = s.d := rfl
@[simp] theorem State.setSp_pc : (s.setSp v).pc = s.pc := rfl
@[simp] theorem State.setSp_dbr : (s.setSp v).dbr = s.dbr := rfl
@[simp] theorem State.setSp_pbr : (s.setSp v).pbr = s.pbr := rfl
@[simp] theorem State.setSp_p : (s.setSp v).p = s.p := rfl
@[simp] theorem State.setSp_e : (s.setSp v).e = s.e := rfl
@[simp] theorem State.setSp_stopped : (s.setSp v).stopped = s.stopped := rfl
@[simp] theorem State.setSp_waiting : (s.setSp v).waiting = s.waiting := rfl
@[simp] theorem State.setSp_nmiPending : (s.setSp v).nmiPending = s.nmiPending := rfl
@[simp] theorem State.setSp_irqLine : (s.setSp v).irqLine = s.irqLine := rfl
@[simp] theorem State.setSp_inputs : (s.setSp v).inputs = s.inputs := rfl
@[simp] theorem State.setSp_free : (s.setSp v).free = s.free := rfl
@[simp] theorem State.setSp_sys : (s.setSp v).sys = s.sys := rfl
end setSp

section setD
variable (v : Word)
@[simp] theorem State.setD_c : (s.setD v).c = s.c := rfl
@[simp] theorem State.setD_x : (s.setD v).x = s.x := rfl
@[simp] theorem State.setD_y : (s.setD v).y = s.y := rfl
@[simp] theorem State.setD_sp : (s.setD v).sp = s.sp := rfl
@[simp] theorem State.setD_d : (s.setD v).d = v := rfl
@[simp] theorem State.setD_pc : (s.setD v).pc = s.pc := rfl
@[simp] theorem State.setD_dbr : (s.setD v).dbr = s.dbr := rfl
@[simp] theorem State.setD_pbr : (s.setD v).pbr = s.pbr := rfl
@[simp] theorem State.setD_p : (s.setD v).p = s.p := rfl
@[simp] theorem State.setD_e : (s.setD v).e = s.e := rfl
@[simp] theorem State.setD_stopped : (s.setD v).stopped = s.stopped := rfl
@[simp] theorem State.setD_waiting : (s.setD v).waiting = s.waiting := rfl
@[simp] theorem State.setD_nmiPending : (s.setD v).nmiPending = s.nmiPending := rfl
@[simp] theorem State.setD_irqLine : (s.setD v).irqLine = s.irqLine := rfl
@[simp] theorem State.setD_inputs : (s.setD v).inputs = s.inputs := rfl
@[simp] theorem State.setD_free : (s.setD v).free = s.free := rfl
@[simp] theorem State.setD_sys : (s.setD v).sys = s.sys := rfl
end setD

section setPc
variable (v : Word)
@[simp] theorem State.setPc_c : (s.setPc v).c = s.c := rfl
@[simp] theorem State.setPc_x : (s.setPc v).x = s.x := rfl
@[simp] theorem State.setPc_y : (s.setPc v).y = s.y := rfl
@[simp] theorem State.setPc_sp : (s.setPc v).sp = s.sp := rfl
@[simp] theorem State.setPc_d : (s.setPc v).d = s.d := rfl
@[simp] theorem State.setPc_pc : (s.setPc v).pc = v := rfl
@[simp] theorem State.setPc_dbr : (s.setPc v).dbr = s.dbr := rfl
@[simp] theorem State.setPc_pbr : (s.setPc v).pbr = s.pbr := rfl
@[simp] theorem State.setPc_p : (s.setPc v).p = s.p := rfl
@[simp] theorem State.setPc_e : (s.setPc v).e = s.e := rfl
@[simp] theorem State.setPc_stopped : (s.setPc v).stopped = s.stopped := rfl
@[simp] theorem State.setPc_waiting : (s.setPc v).waiting = s.waiting := rfl
@[simp] theorem State.setPc_nmiPending : (s.setPc v).nmiPending = s.nmiPending := rfl
@[simp] theorem State.setPc_irqLine : (s.setPc v).irqLine = s.irqLine := rfl
@[simp] theorem State.setPc_inputs : (s.setPc v).inputs = s.inputs := rfl
@[simp] theorem State.setPc_free : (s.setPc v).free = s.free := rfl
@[simp] theorem State.setPc_sys : (s.setPc v).sys = s.sys := rfl
end setPc

section setDbr
variable (v : Byte)
@[simp] theorem State.setDbr_c : (s.setDbr v).c = s.c := rfl
@[simp] theorem State.setDbr_x : (s.setDbr v).x = s.x := rfl
@[simp] theorem State.setDbr_y : (s.setDbr v).y = s.y := rfl
@[simp] theorem State.setDbr_sp : (s.setDbr v).sp = s.sp := rfl
@[simp] theorem State.setDbr_d : (s.setDbr v).d = s.d := rfl
@[simp] theorem State.setDbr_pc : (s.setDbr v).pc = s.pc := rfl
@[simp] theorem State.setDbr_dbr : (s.setDbr v).dbr = v := rfl
@[simp] theorem State.setDbr_pbr : (s.setDbr v).pbr = s.pbr := rfl
@[simp] theorem State.setDbr_p : (s.setDbr v).p = s.p := rfl
@[simp] theorem State.setDbr_e : (s.setDbr v).e = s.e := rfl
@[simp] theorem State.setDbr_stopped : (s.setDbr v).stopped = s.stopped := rfl
@[simp] theorem State.setDbr_waiting : (s.setDbr v).waiting = s.waiting := rfl
@[simp] theorem State.setDbr_nmiPending : (s.setDbr v).nmiPending = s.nmiPending := rfl
@[simp] theorem State.setDbr_irqLine : (s.setDbr v).irqLine = s.irqLine := rfl
@[simp] theorem State.setDbr_inputs : (s.setDbr v).inputs = s.inputs := rfl
@[simp] theorem State.setDbr_free : (s.setDbr v).free = s.free := rfl
@[simp] theorem State.setDbr_sys : (s.setDbr v).sys = s.sys := rfl
end setDbr

section setPbr
variable (v : Byte)
@[simp] theorem State.setPbr_c : (s.setPbr v).c = s.c := rfl
@[simp] theorem State.setPbr_x : (s.setPbr v).x = s.x := rfl
@[simp] theorem State.setPbr_y : (s.setPbr v).y = s.y := rfl
@[simp] theorem State.setPbr_sp : (s.setPbr v).sp = s.sp := rfl
@[simp] theorem State.setPbr_d : (s.setPbr v).d = s.d := rfl
@[simp] theorem State.setPbr_pc : (s.setPbr v).pc = s.pc := rfl
@[simp] theorem State.setPbr_dbr : (s.setPbr v).dbr = s.dbr := rfl
@[simp] theorem State.setPbr_pbr : (s.setPbr v).pbr = v := rfl
@[simp] theorem State.setPbr_p : (s.setPbr v).p = s.p := rfl
@[simp] theorem State.setPbr_e : (s.setPbr v).e = s.e := rfl
@[simp] theorem State.setPbr_stopped : (s.setPbr v).stopped = s.stopped := rfl
@[simp] theorem State.setPbr_waiting : (s.setPbr v).waiting = s.waiting := rfl
@[simp] theorem State.setPbr_nmiPending : (s.setPbr v).nmiPending = s.nmiPending := rfl
@[simp] theorem State.setPbr_irqLine : (s.setPbr v).irqLine = s.irqLine := rfl
@[simp] theorem State.setPbr_inputs : (s.setPbr v).inputs = s.inputs := rfl
@[simp] theorem State.setPbr_free : (s.setPbr v).free = s.free := rfl
@[simp] theorem State.setPbr_sys : (s.setPbr v).sys = s.sys := rfl
end setPbr

section setP
variable (v : Byte)
@[simp] theorem State.setP_c : (s.setP v).c = s.c := rfl
@[simp] theorem State.setP_x : (s.setP v).x = s.x := rfl
@[simp] theorem State.setP_y : (s.setP v).y = s.y := rfl
@[simp] theorem State.setP_sp : (s.setP v).sp = s.sp := rfl
@[simp] theorem State.setP_d : (s.setP v).d = s.d := rfl
@[simp] theorem State.setP_pc : (s.setP v).pc = s.pc := rfl
@[simp] theorem State.setP_dbr : (s.setP v).dbr = s.dbr := rfl
@[simp] theorem State.setP_pbr : (s.setP v).pbr = s.pbr := rfl
@[simp] theorem State.setP_p : (s.setP v).p = v := rfl
@[simp] theorem State.setP_e : (s.setP v).e = s.e := rfl
@[simp] theorem State.setP_stopped : (s.setP v).stopped = s.stopped := rfl
@[simp] theorem State.setP_waiting : (s.setP v).waiting = s.waiting := rfl
@[simp] theorem State.setP_nmiPending : (s.setP v).nmiPending = s.nmiPending := rfl
@[simp] theorem State.setP_irqLine : (s.setP v).irqLine = s.irqLine := rfl
@[simp] theorem State.setP_inputs : (s.setP v).inputs = s.inputs := rfl
@[simp] theorem State.setP_free : (s.setP v).free = s.free := rfl
@[simp] theorem State.setP_sys : (s.setP v).sys = s.sys := rfl
end setP

section setE
variable (v : Bool)
@[simp] theorem State.setE_c : (s.setE v).c = s.c := rfl
@[simp] theorem State.setE_x : (s.setE v).x = s.x := rfl
@[simp] theorem State.setE_y : (s.setE v).y = s.y := rfl
@[simp] theorem State.setE_sp : (s.setE v).sp = s.sp := rfl
@[simp] theorem State.setE_d : (s.setE v).d = s.d := rfl
@[simp] theorem State.setE_pc : (s.setE v).pc = s.pc := rfl
@[simp] theorem State.setE_dbr : (s.setE v).dbr = s.dbr := rfl
@[simp] theorem State.setE_pbr : (s.setE v).pbr = s.pbr := rfl
@[simp] theorem State.setE_p : (s.setE v).p = s.p := rfl
@[simp] theorem State.setE_e : (s.setE v).e = v := rfl
@[simp] theorem State.setE_stopped : (s.setE v).stopped = s.stopped := rfl
@[simp] theorem State.setE_waiting : (s.setE v).waiting = s.waiting := rfl
@[simp] theorem State.setE_nmiPending : (s.setE v).nmiPending = s.nmiPending := rfl
@[simp] theorem State.setE_irqLine : (s.setE v).irqLine = s.irqLine := rfl
@[simp] theorem State.setE_inputs : (s.setE v).inputs = s.inputs := rfl
@[simp] theorem State.setE_free : (s.setE v).free = s.free := rfl
@[simp] theorem State.setE_sys : (s.setE v).sys = s.sys := rfl
end setE

section setStopped
variable (v : Bool)
@[simp] theorem State.setStopped_c : (s.setStopped v).c = s.c := rfl
@[simp] theorem State.setStopped_x : (s.setStopped v).x = s.x := rfl
@[simp] theorem State.setStopped_y : (s.setStopped v).y = s.y := rfl
@[simp] theorem State.setStopped_sp : (s.setStopped v).sp = s.sp := rfl
@[simp] theorem State.setStopped_d : (s.setStopped v).d = s.d := rfl
@[simp] theorem State.setStopped_pc : (s.setStopped v).pc = s.pc := rfl
@[simp] theorem State.setStopped_dbr : (s.setStopped v).dbr = s.dbr := rfl
@[simp] theorem State.setStopped_pbr : (s.setStopped v).pbr = s.pbr := rfl
@[simp] theorem State.setStopped_p : (s.setStopped v).p = s.p := rfl
@[simp] theorem State.setStopped_e : (s.setStopped v).e = s.e := rfl
@[simp] theorem State.setStopped_stopped : (s.setStopped v).stopped = v := rfl
@[simp] theorem State.setStopped_waiting : (s.setStopped v).waiting = s.waiting := rfl
@[simp] theorem State.setStopped_nmiPending : (s.setStopped v).nmiPending = s.nmiPending := rfl
@[simp] theorem State.setStopped_irqLine : (s.setStopped v).irqLine = s.irqLine := rfl
@[simp] theorem State.setStopped_inputs : (s.setStopped v).inputs = s.inputs := rfl
@[simp] theorem State.setStopped_free : (s.setStopped v).free = s.free := rfl
@[simp] theorem State.setStopped_sys : (s.setStopped v).sys = s.sys := rfl
end setStopped

section setWaiting
variable (v : Bool)
@[simp] theorem State.setWaiting_c : (s.setWaiting v).c = s.c := rfl
@[simp] theorem State.setWaiting_x : (s.setWaiting v).x = s.x := rfl
@[simp] theorem State.setWaiting_y : (s.setWaiting v).y = s.y := rfl
@[simp] theorem State.setWaiting_sp : (s.setWaiting v).sp = s.sp := rfl
@[simp] theorem State.setWaiting_d : (s.setWaiting v).d = s.d := rfl
@[simp] theorem State.setWaiting_pc : (s.setWaiting v).pc = s.pc := rfl
@[simp] theorem State.setWaiting_dbr : (s.setWaiting v).dbr = s.dbr := rfl
@[simp] theorem State.setWaiting_pbr : (s.setWaiting v).pbr = s.pbr := rfl
@[simp] theorem State.setWaiting_p : (s.setWaiting v).p = s.p := rfl
@[simp] theorem State.setWaiting_e : (s.setWaiting v).e = s.e := rfl
@[simp] theorem State.setWaiting_stopped : (s.setWaiting v).stopped = s.stopped := rfl
@[simp] theorem State.setWaiting_waiting : (s.setWaiting v).waiting = v := rfl
@[simp] theorem State.setWaiting_nmiPending : (s.setWaiting v).nmiPending = s.nmiPending := rfl
@[simp] theorem State.setWaiting_irqLine : (s.setWaiting v).irqLine = s.irqLine := rfl
@[simp] theorem State.setWaiting_inputs : (s.setWaiting v).inputs = s.inputs := rfl
@[simp] theorem State.setWaiting_free : (s.setWaiting v).free = s.free := rfl
@[simp] theorem State.setWaiting_sys : (s.setWaiting v).sys = s.sys := rfl
end setWaiting

section setNmiPending
variable (v : Bool)
@[simp] theorem State.setNmiPending_c : (s.setNmiPending v).c = s.c := rfl
@[simp] theorem State.setNmiPending_x : (s.setNmiPending v).x = s.x := rfl
@[simp] theorem State.setNmiPending_y : (s.setNmiPending v).y = s.y := rfl
@[simp] theorem State.setNmiPending_sp : (s.setNmiPending v).sp = s.sp := rfl
@[simp] theorem State.setNmiPending_d : (s.setNmiPending v).d = s.d := rfl
@[simp] theorem State.setNmiPending_pc : (s.setNmiPending v).pc = s.pc := rfl
@[simp] theorem State.setNmiPending_dbr : (s.setNmiPending v).dbr = s.dbr := rfl
@[simp] theorem State.setNmiPending_pbr : (s.setNmiPending v).pbr = s.pbr := rfl
@[simp] theorem State.setNmiPending_p : (s.setNmiPending v).p = s.p := rfl
@[simp] theorem State.setNmiPending_e : (s.setNmiPending v).e = s.e := rfl
@[simp] theorem State.setNmiPending_stopped : (s.setNmiPending v).stopped = s.stopped := rfl
@[simp] theorem State.setNmiPending_waiting : (s.setNmiPending v).waiting = s.waiting := rfl
@[simp] theorem State.setNmiPending_nmiPending : (s.setNmiPending v).nmiPending = v := rfl
@[simp] theorem State.setNmiPending_irqLine : (s.setNmiPending v).irqLine = s.irqLine := rfl
@[simp] theorem State.setNmiPending_inputs : (s.setNmiPending v).inputs = s.inputs := rfl
@[simp] theorem State.setNmiPending_free : (s.setNmiPending v).free = s.free := rfl
@[simp] theorem State.setNmiPending_sys : (s.setNmiPending v).sys = s.sys := rfl
end setNmiPending

section setIrqLine
variable (v : Bool)
@[simp] theorem State.setIrqLine_c : (s.setIrqLine v).c = s.c := rfl
@[simp] theorem State.setIrqLine_x : (s.setIrqLine v).x = s.x := rfl
@[simp] theorem State.setIrqLine_y : (s.setIrqLine v).y = s.y := rfl
@[simp] theorem State.setIrqLine_sp : (s.setIrqLine v).sp = s.sp := rfl
@[simp] theorem State.setIrqLine_d : (s.setIrqLine v).d = s.d := rfl
@[simp] theorem State.setIrqLine_pc : (s.setIrqLine v).pc = s.pc := rfl
@[simp] theorem State.setIrqLine_dbr : (s.setIrqLine v).dbr = s.dbr := rfl
@[simp] theorem State.setIrqLine_pbr : (s.setIrqLine v).pbr = s.pbr := rfl
@[simp] theorem State.setIrqLine_p : (s.setIrqLine v).p = s.p := rfl
@[simp] theorem State.setIrqLine_e : (s.setIrqLine v).e = s.e := rfl
@[simp] theorem State.setIrqLine_stopped : (s.setIrqLine v).stopped = s.stopped := rfl
@[simp] theorem State.setIrqLine_waiting : (s.setIrqLine v).waiting = s.waiting := rfl
@[simp] theorem State.setIrqLine_nmiPending : (s.setIrqLine v).nmiPending = s.nmiPending := rfl
@[simp] theorem State.setIrqLine_irqLine : (s.setIrqLine v).irqLine = v := rfl
@[simp] theorem State.setIrqLine_inputs : (s.setIrqLine v).inputs = s.inputs := rfl
@[simp] theorem State.setIrqLine_free : (s.setIrqLine v).free = s.free := rfl
@[simp] theorem State.setIrqLine_sys : (s.setIrqLine v).sys = s.sys := rfl
end setIrqLine

section setInputs
variable (v : List Input)
@[simp] theorem State.setInputs_c : (s.setInputs v).c = s.c := rfl
@[simp] theorem State.setInputs_x : (s.setInputs v).x = s.x := rfl
@[simp] theorem State.setInputs_y : (s.setInputs v).y = s.y := rfl
@[simp] theorem State.setInputs_sp : (s.setInputs v).sp = s.sp := rfl
@[simp] theorem State.setInputs_d : (s.setInputs v).d = s.d := rfl
@[simp] theorem State.setInputs_pc : (s.setInputs v).pc = s.pc := rfl
@[simp] theorem State.setInputs_dbr : (s.setInputs v).dbr = s.dbr := rfl
@[simp] theorem State.setInputs_pbr : (s.setInputs v).pbr = s.pbr := rfl
@[simp] theorem State.setInputs_p : (s.setInputs v).p = s.p := rfl
@[simp] theorem State.setInputs_e : (s.setInputs v).e = s.e := rfl
@[simp] theorem State.setInputs_stopped : (s.setInputs v).stopped = s.stopped := rfl
@[simp] theorem State.setInputs_waiting : (s.setInputs v).waiting = s.waiting := rfl
@[simp] theorem State.setInputs_nmiPending : (s.setInputs v).nmiPending = s.nmiPending := rfl
@[simp] theorem State.setInputs_irqLine : (s.setInputs v).irqLine = s.irqLine := rfl
@[simp] theorem State.setInputs_inputs : (s.setInputs v).inputs = v := rfl
@[simp] theorem State.setInputs_free : (s.setInputs v).free = s.free := rfl
@[simp] theorem State.setInputs_sys : (s.setInputs v).sys = s.sys := rfl
end setInputs

section setFree
variable (v : Nat)
@[simp] theorem State.setFree_c : (s.setFree v).c = s.c := rfl
@[simp] theorem State.setFree_x : (s.setFree v).x = s.x := rfl
@[simp] theorem State.setFree_y : (s.setFree v).y = s.y := rfl
@[simp] theorem State.setFree_sp : (s.setFree v).sp = s.sp := rfl
@[simp] theorem State.setFree_d : (s.setFree v).d = s.d := rfl
@[simp] theorem State.setFree_pc : (s.setFree v).pc = s.pc := rfl
@[simp] theorem State.setFree_dbr : (s.setFree v).dbr = s.dbr := rfl
@[simp] theorem State.setFree_pbr : (s.setFree v).pbr = s.pbr := rfl
@[simp] theorem State.setFree_p : (s.setFree v).p = s.p := rfl
@[simp] theorem State.setFree_e : (s.setFree v).e = s.e := rfl
@[simp] theorem State.setFree_stopped : (s.setFree v).stopped = s.stopped := rfl
@[simp] theorem State.setFree_waiting : (s.setFree v).waiting = s.waiting := rfl
@[simp] theorem State.setFree_nmiPending : (s.setFree v).nmiPending = s.nmiPending := rfl
@[simp] theorem State.setFree_irqLine : (s.setFree v).irqLine = s.irqLine := rfl
@[simp] theorem State.setFree_inputs : (s.setFree v).inputs = s.inputs := rfl
@[simp] theorem State.setFree_free : (s.setFree v).free = v := rfl
@[simp] theorem State.setFree_sys : (s.setFree v).sys = s.sys := rfl
end setFree

section setSys
variable (v : System)
@[simp] theorem State.setSys_c : (s.setSys v).c = s.c := rfl
@[simp] theorem State.setSys_x : (s.setSys v).x = s.x := rfl
@[simp] theorem State.setSys_y : (s.setSys v).y = s.y := rfl
@[simp] theorem State.setSys_sp : (s.setSys v).sp = s.sp := rfl
@[simp] theorem State.setSys_d : (s.setSys v).d = s.d := rfl
@[simp] theorem State.setSys_pc : (s.setSys v).pc = s.pc := rfl
@[simp] theorem State.setSys_dbr : (s.setSys v).dbr = s.dbr := rfl
@[simp] theorem State.setSys_pbr : (s.setSys v).pbr = s.pbr := rfl
@[simp] theorem State.setSys_p : (s.setSys v).p = s.p := rfl
@[simp] theorem State.setSys_e : (s.setSys v).e = s.e := rfl
@[simp] theorem State.setSys_stopped : (s.setSys v).stopped = s.stopped := rfl
@[simp] theorem State.setSys_waiting : (s.setSys v).waiting = s.waiting := rfl
@[simp] theorem State.setSys_nmiPending : (s.setSys v).nmiPending = s.nmiPending := rfl
@[simp] theorem State.setSys_irqLine : (s.setSys v).irqLine = s.irqLine := rfl
@[simp] theorem State.setSys_inputs : (s.setSys v).inputs = s.inputs := rfl
@[simp] theorem State.setSys_free : (s.setSys v).free = s.free := rfl
@[simp] theorem State.setSys_sys : (s.setSys v).sys = v := rfl
end setSys

/-- Two states with the same fields are the same. -/
theorem State.ext_fields {s t : State} (h0 : s.c = t.c) (h1 : s.x = t.x) (h2 : s.y = t.y) (h3 : s.sp = t.sp) (h4 : s.d = t.d) (h5 : s.pc = t.pc) (h6 : s.dbr = t.dbr) (h7 : s.pbr = t.pbr) (h8 : s.p = t.p) (h9 : s.e = t.e) (h10 : s.stopped = t.stopped) (h11 : s.waiting = t.waiting) (h12 : s.nmiPending = t.nmiPending) (h13 : s.irqLine = t.irqLine) (h14 : s.inputs = t.inputs) (h15 : s.free = t.free) (h16 : s.sys = t.sys) :
    s = t := by
  cases s; cases t; simp_all

end Sys2Proof.Machine
end

