-- ==== Sys2Proof/Laws/Frames.lean ====
section
/-! SUPPORT. Which fields each shared operation leaves as they are: one lemma per operation and field it does not write. -/

namespace Sys2Proof.Machine

variable (s : State)

section setters
@[simp] theorem State.setC_flag (v : Word) (f0 : Flag) : (s.setC v).flag f0 = s.flag f0 := rfl
@[simp] theorem State.setC_wA (v : Word) : (s.setC v).wA = s.wA := rfl
@[simp] theorem State.setC_wX (v : Word) : (s.setC v).wX = s.wX := rfl
@[simp] theorem State.setX_flag (v : Word) (f0 : Flag) : (s.setX v).flag f0 = s.flag f0 := rfl
@[simp] theorem State.setX_wA (v : Word) : (s.setX v).wA = s.wA := rfl
@[simp] theorem State.setX_wX (v : Word) : (s.setX v).wX = s.wX := rfl
@[simp] theorem State.setY_flag (v : Word) (f0 : Flag) : (s.setY v).flag f0 = s.flag f0 := rfl
@[simp] theorem State.setY_wA (v : Word) : (s.setY v).wA = s.wA := rfl
@[simp] theorem State.setY_wX (v : Word) : (s.setY v).wX = s.wX := rfl
@[simp] theorem State.setSp_flag (v : Word) (f0 : Flag) : (s.setSp v).flag f0 = s.flag f0 := rfl
@[simp] theorem State.setSp_wA (v : Word) : (s.setSp v).wA = s.wA := rfl
@[simp] theorem State.setSp_wX (v : Word) : (s.setSp v).wX = s.wX := rfl
@[simp] theorem State.setD_flag (v : Word) (f0 : Flag) : (s.setD v).flag f0 = s.flag f0 := rfl
@[simp] theorem State.setD_wA (v : Word) : (s.setD v).wA = s.wA := rfl
@[simp] theorem State.setD_wX (v : Word) : (s.setD v).wX = s.wX := rfl
@[simp] theorem State.setPc_flag (v : Word) (f0 : Flag) : (s.setPc v).flag f0 = s.flag f0 := rfl
@[simp] theorem State.setPc_wA (v : Word) : (s.setPc v).wA = s.wA := rfl
@[simp] theorem State.setPc_wX (v : Word) : (s.setPc v).wX = s.wX := rfl
@[simp] theorem State.setDbr_flag (v : Byte) (f0 : Flag) : (s.setDbr v).flag f0 = s.flag f0 := rfl
@[simp] theorem State.setDbr_wA (v : Byte) : (s.setDbr v).wA = s.wA := rfl
@[simp] theorem State.setDbr_wX (v : Byte) : (s.setDbr v).wX = s.wX := rfl
@[simp] theorem State.setPbr_flag (v : Byte) (f0 : Flag) : (s.setPbr v).flag f0 = s.flag f0 := rfl
@[simp] theorem State.setPbr_wA (v : Byte) : (s.setPbr v).wA = s.wA := rfl
@[simp] theorem State.setPbr_wX (v : Byte) : (s.setPbr v).wX = s.wX := rfl
@[simp] theorem State.setE_flag (v : Bool) (f0 : Flag) : (s.setE v).flag f0 = s.flag f0 := rfl
@[simp] theorem State.setE_wA (v : Bool) : (s.setE v).wA = s.wA := rfl
@[simp] theorem State.setE_wX (v : Bool) : (s.setE v).wX = s.wX := rfl
@[simp] theorem State.setStopped_flag (v : Bool) (f0 : Flag) : (s.setStopped v).flag f0 = s.flag f0 := rfl
@[simp] theorem State.setStopped_wA (v : Bool) : (s.setStopped v).wA = s.wA := rfl
@[simp] theorem State.setStopped_wX (v : Bool) : (s.setStopped v).wX = s.wX := rfl
@[simp] theorem State.setWaiting_flag (v : Bool) (f0 : Flag) : (s.setWaiting v).flag f0 = s.flag f0 := rfl
@[simp] theorem State.setWaiting_wA (v : Bool) : (s.setWaiting v).wA = s.wA := rfl
@[simp] theorem State.setWaiting_wX (v : Bool) : (s.setWaiting v).wX = s.wX := rfl
@[simp] theorem State.setNmiPending_flag (v : Bool) (f0 : Flag) : (s.setNmiPending v).flag f0 = s.flag f0 := rfl
@[simp] theorem State.setNmiPending_wA (v : Bool) : (s.setNmiPending v).wA = s.wA := rfl
@[simp] theorem State.setNmiPending_wX (v : Bool) : (s.setNmiPending v).wX = s.wX := rfl
@[simp] theorem State.setIrqLine_flag (v : Bool) (f0 : Flag) : (s.setIrqLine v).flag f0 = s.flag f0 := rfl
@[simp] theorem State.setIrqLine_wA (v : Bool) : (s.setIrqLine v).wA = s.wA := rfl
@[simp] theorem State.setIrqLine_wX (v : Bool) : (s.setIrqLine v).wX = s.wX := rfl
@[simp] theorem State.setInputs_flag (v : List Input) (f0 : Flag) : (s.setInputs v).flag f0 = s.flag f0 := rfl
@[simp] theorem State.setInputs_wA (v : List Input) : (s.setInputs v).wA = s.wA := rfl
@[simp] theorem State.setInputs_wX (v : List Input) : (s.setInputs v).wX = s.wX := rfl
@[simp] theorem State.setFree_flag (v : Nat) (f0 : Flag) : (s.setFree v).flag f0 = s.flag f0 := rfl
@[simp] theorem State.setFree_wA (v : Nat) : (s.setFree v).wA = s.wA := rfl
@[simp] theorem State.setFree_wX (v : Nat) : (s.setFree v).wX = s.wX := rfl
@[simp] theorem State.setSys_flag (v : System) (f0 : Flag) : (s.setSys v).flag f0 = s.flag f0 := rfl
@[simp] theorem State.setSys_wA (v : System) : (s.setSys v).wA = s.wA := rfl
@[simp] theorem State.setSys_wX (v : System) : (s.setSys v).wX = s.wX := rfl
end setters

section setFlag
variable (f : Flag) (b : Bool)
@[simp] theorem State.setFlag_c : (s.setFlag f b).c = s.c := rfl
@[simp] theorem State.setFlag_x : (s.setFlag f b).x = s.x := rfl
@[simp] theorem State.setFlag_y : (s.setFlag f b).y = s.y := rfl
@[simp] theorem State.setFlag_sp : (s.setFlag f b).sp = s.sp := rfl
@[simp] theorem State.setFlag_d : (s.setFlag f b).d = s.d := rfl
@[simp] theorem State.setFlag_pc : (s.setFlag f b).pc = s.pc := rfl
@[simp] theorem State.setFlag_dbr : (s.setFlag f b).dbr = s.dbr := rfl
@[simp] theorem State.setFlag_pbr : (s.setFlag f b).pbr = s.pbr := rfl
@[simp] theorem State.setFlag_e : (s.setFlag f b).e = s.e := rfl
@[simp] theorem State.setFlag_stopped : (s.setFlag f b).stopped = s.stopped := rfl
@[simp] theorem State.setFlag_waiting : (s.setFlag f b).waiting = s.waiting := rfl
@[simp] theorem State.setFlag_nmiPending : (s.setFlag f b).nmiPending = s.nmiPending := rfl
@[simp] theorem State.setFlag_irqLine : (s.setFlag f b).irqLine = s.irqLine := rfl
@[simp] theorem State.setFlag_inputs : (s.setFlag f b).inputs = s.inputs := rfl
@[simp] theorem State.setFlag_free : (s.setFlag f b).free = s.free := rfl
@[simp] theorem State.setFlag_sys : (s.setFlag f b).sys = s.sys := rfl
end setFlag

section setFlagIf
variable (q : Bool) (f : Flag) (b : Bool)
@[simp] theorem State.setFlagIf_c : (s.setFlagIf q f b).c = s.c := by cases q <;> rfl
@[simp] theorem State.setFlagIf_x : (s.setFlagIf q f b).x = s.x := by cases q <;> rfl
@[simp] theorem State.setFlagIf_y : (s.setFlagIf q f b).y = s.y := by cases q <;> rfl
@[simp] theorem State.setFlagIf_sp : (s.setFlagIf q f b).sp = s.sp := by cases q <;> rfl
@[simp] theorem State.setFlagIf_d : (s.setFlagIf q f b).d = s.d := by cases q <;> rfl
@[simp] theorem State.setFlagIf_pc : (s.setFlagIf q f b).pc = s.pc := by cases q <;> rfl
@[simp] theorem State.setFlagIf_dbr : (s.setFlagIf q f b).dbr = s.dbr := by cases q <;> rfl
@[simp] theorem State.setFlagIf_pbr : (s.setFlagIf q f b).pbr = s.pbr := by cases q <;> rfl
@[simp] theorem State.setFlagIf_e : (s.setFlagIf q f b).e = s.e := by cases q <;> rfl
@[simp] theorem State.setFlagIf_stopped : (s.setFlagIf q f b).stopped = s.stopped := by cases q <;> rfl
@[simp] theorem State.setFlagIf_waiting : (s.setFlagIf q f b).waiting = s.waiting := by cases q <;> rfl
@[simp] theorem State.setFlagIf_nmiPending : (s.setFlagIf q f b).nmiPending = s.nmiPending := by cases q <;> rfl
@[simp] theorem State.setFlagIf_irqLine : (s.setFlagIf q f b).irqLine = s.irqLine := by cases q <;> rfl
@[simp] theorem State.setFlagIf_inputs : (s.setFlagIf q f b).inputs = s.inputs := by cases q <;> rfl
@[simp] theorem State.setFlagIf_free : (s.setFlagIf q f b).free = s.free := by cases q <;> rfl
@[simp] theorem State.setFlagIf_sys : (s.setFlagIf q f b).sys = s.sys := by cases q <;> rfl
end setFlagIf

section setNZ
variable (w : Width) (v : Word)
@[simp] theorem State.setNZ_c : (s.setNZ w v).c = s.c := rfl
@[simp] theorem State.setNZ_x : (s.setNZ w v).x = s.x := rfl
@[simp] theorem State.setNZ_y : (s.setNZ w v).y = s.y := rfl
@[simp] theorem State.setNZ_sp : (s.setNZ w v).sp = s.sp := rfl
@[simp] theorem State.setNZ_d : (s.setNZ w v).d = s.d := rfl
@[simp] theorem State.setNZ_pc : (s.setNZ w v).pc = s.pc := rfl
@[simp] theorem State.setNZ_dbr : (s.setNZ w v).dbr = s.dbr := rfl
@[simp] theorem State.setNZ_pbr : (s.setNZ w v).pbr = s.pbr := rfl
@[simp] theorem State.setNZ_e : (s.setNZ w v).e = s.e := rfl
@[simp] theorem State.setNZ_stopped : (s.setNZ w v).stopped = s.stopped := rfl
@[simp] theorem State.setNZ_waiting : (s.setNZ w v).waiting = s.waiting := rfl
@[simp] theorem State.setNZ_nmiPending : (s.setNZ w v).nmiPending = s.nmiPending := rfl
@[simp] theorem State.setNZ_irqLine : (s.setNZ w v).irqLine = s.irqLine := rfl
@[simp] theorem State.setNZ_inputs : (s.setNZ w v).inputs = s.inputs := rfl
@[simp] theorem State.setNZ_free : (s.setNZ w v).free = s.free := rfl
@[simp] theorem State.setNZ_sys : (s.setNZ w v).sys = s.sys := rfl
end setNZ

section setAcc
variable (w : Width) (v : Word)
@[simp] theorem State.setAcc_x : (s.setAcc w v).x = s.x := by cases w <;> rfl
@[simp] theorem State.setAcc_y : (s.setAcc w v).y = s.y := by cases w <;> rfl
@[simp] theorem State.setAcc_sp : (s.setAcc w v).sp = s.sp := by cases w <;> rfl
@[simp] theorem State.setAcc_d : (s.setAcc w v).d = s.d := by cases w <;> rfl
@[simp] theorem State.setAcc_pc : (s.setAcc w v).pc = s.pc := by cases w <;> rfl
@[simp] theorem State.setAcc_dbr : (s.setAcc w v).dbr = s.dbr := by cases w <;> rfl
@[simp] theorem State.setAcc_pbr : (s.setAcc w v).pbr = s.pbr := by cases w <;> rfl
@[simp] theorem State.setAcc_p : (s.setAcc w v).p = s.p := by cases w <;> rfl
@[simp] theorem State.setAcc_e : (s.setAcc w v).e = s.e := by cases w <;> rfl
@[simp] theorem State.setAcc_stopped : (s.setAcc w v).stopped = s.stopped := by cases w <;> rfl
@[simp] theorem State.setAcc_waiting : (s.setAcc w v).waiting = s.waiting := by cases w <;> rfl
@[simp] theorem State.setAcc_nmiPending : (s.setAcc w v).nmiPending = s.nmiPending := by cases w <;> rfl
@[simp] theorem State.setAcc_irqLine : (s.setAcc w v).irqLine = s.irqLine := by cases w <;> rfl
@[simp] theorem State.setAcc_inputs : (s.setAcc w v).inputs = s.inputs := by cases w <;> rfl
@[simp] theorem State.setAcc_free : (s.setAcc w v).free = s.free := by cases w <;> rfl
@[simp] theorem State.setAcc_sys : (s.setAcc w v).sys = s.sys := by cases w <;> rfl
@[simp] theorem State.setAcc_flag (f0 : Flag) : (s.setAcc w v).flag f0 = s.flag f0 := by simp only [State.flag, State.setAcc_p]
@[simp] theorem State.setAcc_wA : (s.setAcc w v).wA = s.wA := by simp only [State.wA, State.setAcc_flag]
@[simp] theorem State.setAcc_wX : (s.setAcc w v).wX = s.wX := by simp only [State.wX, State.setAcc_flag]
end setAcc

section advance
variable (n : Nat)
@[simp] theorem State.advance_c : (s.advance n).c = s.c := rfl
@[simp] theorem State.advance_x : (s.advance n).x = s.x := rfl
@[simp] theorem State.advance_y : (s.advance n).y = s.y := rfl
@[simp] theorem State.advance_sp : (s.advance n).sp = s.sp := rfl
@[simp] theorem State.advance_d : (s.advance n).d = s.d := rfl
@[simp] theorem State.advance_dbr : (s.advance n).dbr = s.dbr := rfl
@[simp] theorem State.advance_pbr : (s.advance n).pbr = s.pbr := rfl
@[simp] theorem State.advance_p : (s.advance n).p = s.p := rfl
@[simp] theorem State.advance_e : (s.advance n).e = s.e := rfl
@[simp] theorem State.advance_stopped : (s.advance n).stopped = s.stopped := rfl
@[simp] theorem State.advance_waiting : (s.advance n).waiting = s.waiting := rfl
@[simp] theorem State.advance_nmiPending : (s.advance n).nmiPending = s.nmiPending := rfl
@[simp] theorem State.advance_irqLine : (s.advance n).irqLine = s.irqLine := rfl
@[simp] theorem State.advance_inputs : (s.advance n).inputs = s.inputs := rfl
@[simp] theorem State.advance_free : (s.advance n).free = s.free := rfl
@[simp] theorem State.advance_sys : (s.advance n).sys = s.sys := rfl
@[simp] theorem State.advance_flag (f0 : Flag) : (s.advance n).flag f0 = s.flag f0 := by simp only [State.flag, State.advance_p]
@[simp] theorem State.advance_wA : (s.advance n).wA = s.wA := by simp only [State.wA, State.advance_flag]
@[simp] theorem State.advance_wX : (s.advance n).wX = s.wX := by simp only [State.wX, State.advance_flag]
end advance

section afterRead
variable (a : Addr)
@[simp] theorem State.afterRead_c : (s.afterRead a).c = s.c := rfl
@[simp] theorem State.afterRead_x : (s.afterRead a).x = s.x := rfl
@[simp] theorem State.afterRead_y : (s.afterRead a).y = s.y := rfl
@[simp] theorem State.afterRead_sp : (s.afterRead a).sp = s.sp := rfl
@[simp] theorem State.afterRead_d : (s.afterRead a).d = s.d := rfl
@[simp] theorem State.afterRead_pc : (s.afterRead a).pc = s.pc := rfl
@[simp] theorem State.afterRead_dbr : (s.afterRead a).dbr = s.dbr := rfl
@[simp] theorem State.afterRead_pbr : (s.afterRead a).pbr = s.pbr := rfl
@[simp] theorem State.afterRead_p : (s.afterRead a).p = s.p := rfl
@[simp] theorem State.afterRead_e : (s.afterRead a).e = s.e := rfl
@[simp] theorem State.afterRead_stopped : (s.afterRead a).stopped = s.stopped := rfl
@[simp] theorem State.afterRead_waiting : (s.afterRead a).waiting = s.waiting := rfl
@[simp] theorem State.afterRead_nmiPending : (s.afterRead a).nmiPending = s.nmiPending := rfl
@[simp] theorem State.afterRead_irqLine : (s.afterRead a).irqLine = s.irqLine := rfl
@[simp] theorem State.afterRead_inputs : (s.afterRead a).inputs = s.inputs := rfl
@[simp] theorem State.afterRead_free : (s.afterRead a).free = s.free := rfl
@[simp] theorem State.afterRead_flag (f0 : Flag) : (s.afterRead a).flag f0 = s.flag f0 := by simp only [State.flag, State.afterRead_p]
@[simp] theorem State.afterRead_wA : (s.afterRead a).wA = s.wA := by simp only [State.wA, State.afterRead_flag]
@[simp] theorem State.afterRead_wX : (s.afterRead a).wX = s.wX := by simp only [State.wX, State.afterRead_flag]
end afterRead

section read8
variable (a : Addr)
@[simp] theorem State.read8_c : ((s.read8 a).2).c = s.c := rfl
@[simp] theorem State.read8_x : ((s.read8 a).2).x = s.x := rfl
@[simp] theorem State.read8_y : ((s.read8 a).2).y = s.y := rfl
@[simp] theorem State.read8_sp : ((s.read8 a).2).sp = s.sp := rfl
@[simp] theorem State.read8_d : ((s.read8 a).2).d = s.d := rfl
@[simp] theorem State.read8_pc : ((s.read8 a).2).pc = s.pc := rfl
@[simp] theorem State.read8_dbr : ((s.read8 a).2).dbr = s.dbr := rfl
@[simp] theorem State.read8_pbr : ((s.read8 a).2).pbr = s.pbr := rfl
@[simp] theorem State.read8_p : ((s.read8 a).2).p = s.p := rfl
@[simp] theorem State.read8_e : ((s.read8 a).2).e = s.e := rfl
@[simp] theorem State.read8_stopped : ((s.read8 a).2).stopped = s.stopped := rfl
@[simp] theorem State.read8_waiting : ((s.read8 a).2).waiting = s.waiting := rfl
@[simp] theorem State.read8_nmiPending : ((s.read8 a).2).nmiPending = s.nmiPending := rfl
@[simp] theorem State.read8_irqLine : ((s.read8 a).2).irqLine = s.irqLine := rfl
@[simp] theorem State.read8_inputs : ((s.read8 a).2).inputs = s.inputs := rfl
@[simp] theorem State.read8_free : ((s.read8 a).2).free = s.free := rfl
@[simp] theorem State.read8_flag (f0 : Flag) : ((s.read8 a).2).flag f0 = s.flag f0 := by simp only [State.flag, State.read8_p]
@[simp] theorem State.read8_wA : ((s.read8 a).2).wA = s.wA := by simp only [State.wA, State.read8_flag]
@[simp] theorem State.read8_wX : ((s.read8 a).2).wX = s.wX := by simp only [State.wX, State.read8_flag]
end read8

section write8
variable (a : Addr) (v : Byte)
@[simp] theorem State.write8_c : (s.write8 a v).c = s.c := rfl
@[simp] theorem State.write8_x : (s.write8 a v).x = s.x := rfl
@[simp] theorem State.write8_y : (s.write8 a v).y = s.y := rfl
@[simp] theorem State.write8_sp : (s.write8 a v).sp = s.sp := rfl
@[simp] theorem State.write8_d : (s.write8 a v).d = s.d := rfl
@[simp] theorem State.write8_pc : (s.write8 a v).pc = s.pc := rfl
@[simp] theorem State.write8_dbr : (s.write8 a v).dbr = s.dbr := rfl
@[simp] theorem State.write8_pbr : (s.write8 a v).pbr = s.pbr := rfl
@[simp] theorem State.write8_p : (s.write8 a v).p = s.p := rfl
@[simp] theorem State.write8_e : (s.write8 a v).e = s.e := rfl
@[simp] theorem State.write8_stopped : (s.write8 a v).stopped = s.stopped := rfl
@[simp] theorem State.write8_waiting : (s.write8 a v).waiting = s.waiting := rfl
@[simp] theorem State.write8_nmiPending : (s.write8 a v).nmiPending = s.nmiPending := rfl
@[simp] theorem State.write8_irqLine : (s.write8 a v).irqLine = s.irqLine := rfl
@[simp] theorem State.write8_inputs : (s.write8 a v).inputs = s.inputs := rfl
@[simp] theorem State.write8_free : (s.write8 a v).free = s.free := rfl
@[simp] theorem State.write8_flag (f0 : Flag) : (s.write8 a v).flag f0 = s.flag f0 := by simp only [State.flag, State.write8_p]
@[simp] theorem State.write8_wA : (s.write8 a v).wA = s.wA := by simp only [State.wA, State.write8_flag]
@[simp] theorem State.write8_wX : (s.write8 a v).wX = s.wX := by simp only [State.wX, State.write8_flag]
end write8

section read16
variable (l : Loc)
@[simp] theorem State.read16_c : ((s.read16 l).2).c = s.c := by simp only [State.read16, State.read8_c]
@[simp] theorem State.read16_x : ((s.read16 l).2).x = s.x := by simp only [State.read16, State.read8_x]
@[simp] theorem State.read16_y : ((s.read16 l).2).y = s.y := by simp only [State.read16, State.read8_y]
@[simp] theorem State.read16_sp : ((s.read16 l).2).sp = s.sp := by simp only [State.read16, State.read8_sp]
@[simp] theorem State.read16_d : ((s.read16 l).2).d = s.d := by simp only [State.read16, State.read8_d]
@[simp] theorem State.read16_pc : ((s.read16 l).2).pc = s.pc := by simp only [State.read16, State.read8_pc]
@[simp] theorem State.read16_dbr : ((s.read16 l).2).dbr = s.dbr := by simp only [State.read16, State.read8_dbr]
@[simp] theorem State.read16_pbr : ((s.read16 l).2).pbr = s.pbr := by simp only [State.read16, State.read8_pbr]
@[simp] theorem State.read16_p : ((s.read16 l).2).p = s.p := by simp only [State.read16, State.read8_p]
@[simp] theorem State.read16_e : ((s.read16 l).2).e = s.e := by simp only [State.read16, State.read8_e]
@[simp] theorem State.read16_stopped : ((s.read16 l).2).stopped = s.stopped := by simp only [State.read16, State.read8_stopped]
@[simp] theorem State.read16_waiting : ((s.read16 l).2).waiting = s.waiting := by simp only [State.read16, State.read8_waiting]
@[simp] theorem State.read16_nmiPending : ((s.read16 l).2).nmiPending = s.nmiPending := by simp only [State.read16, State.read8_nmiPending]
@[simp] theorem State.read16_irqLine : ((s.read16 l).2).irqLine = s.irqLine := by simp only [State.read16, State.read8_irqLine]
@[simp] theorem State.read16_inputs : ((s.read16 l).2).inputs = s.inputs := by simp only [State.read16, State.read8_inputs]
@[simp] theorem State.read16_free : ((s.read16 l).2).free = s.free := by simp only [State.read16, State.read8_free]
@[simp] theorem State.read16_flag (f0 : Flag) : ((s.read16 l).2).flag f0 = s.flag f0 := by simp only [State.flag, State.read16_p]
@[simp] theorem State.read16_wA : ((s.read16 l).2).wA = s.wA := by simp only [State.wA, State.read16_flag]
@[simp] theorem State.read16_wX : ((s.read16 l).2).wX = s.wX := by simp only [State.wX, State.read16_flag]
end read16

section read24
variable (l : Loc)
@[simp] theorem State.read24_c : ((s.read24 l).2).c = s.c := by simp only [State.read24, State.read8_c]
@[simp] theorem State.read24_x : ((s.read24 l).2).x = s.x := by simp only [State.read24, State.read8_x]
@[simp] theorem State.read24_y : ((s.read24 l).2).y = s.y := by simp only [State.read24, State.read8_y]
@[simp] theorem State.read24_sp : ((s.read24 l).2).sp = s.sp := by simp only [State.read24, State.read8_sp]
@[simp] theorem State.read24_d : ((s.read24 l).2).d = s.d := by simp only [State.read24, State.read8_d]
@[simp] theorem State.read24_pc : ((s.read24 l).2).pc = s.pc := by simp only [State.read24, State.read8_pc]
@[simp] theorem State.read24_dbr : ((s.read24 l).2).dbr = s.dbr := by simp only [State.read24, State.read8_dbr]
@[simp] theorem State.read24_pbr : ((s.read24 l).2).pbr = s.pbr := by simp only [State.read24, State.read8_pbr]
@[simp] theorem State.read24_p : ((s.read24 l).2).p = s.p := by simp only [State.read24, State.read8_p]
@[simp] theorem State.read24_e : ((s.read24 l).2).e = s.e := by simp only [State.read24, State.read8_e]
@[simp] theorem State.read24_stopped : ((s.read24 l).2).stopped = s.stopped := by simp only [State.read24, State.read8_stopped]
@[simp] theorem State.read24_waiting : ((s.read24 l).2).waiting = s.waiting := by simp only [State.read24, State.read8_waiting]
@[simp] theorem State.read24_nmiPending : ((s.read24 l).2).nmiPending = s.nmiPending := by simp only [State.read24, State.read8_nmiPending]
@[simp] theorem State.read24_irqLine : ((s.read24 l).2).irqLine = s.irqLine := by simp only [State.read24, State.read8_irqLine]
@[simp] theorem State.read24_inputs : ((s.read24 l).2).inputs = s.inputs := by simp only [State.read24, State.read8_inputs]
@[simp] theorem State.read24_free : ((s.read24 l).2).free = s.free := by simp only [State.read24, State.read8_free]
@[simp] theorem State.read24_flag (f0 : Flag) : ((s.read24 l).2).flag f0 = s.flag f0 := by simp only [State.flag, State.read24_p]
@[simp] theorem State.read24_wA : ((s.read24 l).2).wA = s.wA := by simp only [State.wA, State.read24_flag]
@[simp] theorem State.read24_wX : ((s.read24 l).2).wX = s.wX := by simp only [State.wX, State.read24_flag]
end read24

section readW
variable (w : Width) (l : Loc)
@[simp] theorem State.readW_c : ((s.readW w l).2).c = s.c := by cases w <;> simp only [State.readW, State.read8_c, State.read16_c]
@[simp] theorem State.readW_x : ((s.readW w l).2).x = s.x := by cases w <;> simp only [State.readW, State.read8_x, State.read16_x]
@[simp] theorem State.readW_y : ((s.readW w l).2).y = s.y := by cases w <;> simp only [State.readW, State.read8_y, State.read16_y]
@[simp] theorem State.readW_sp : ((s.readW w l).2).sp = s.sp := by cases w <;> simp only [State.readW, State.read8_sp, State.read16_sp]
@[simp] theorem State.readW_d : ((s.readW w l).2).d = s.d := by cases w <;> simp only [State.readW, State.read8_d, State.read16_d]
@[simp] theorem State.readW_pc : ((s.readW w l).2).pc = s.pc := by cases w <;> simp only [State.readW, State.read8_pc, State.read16_pc]
@[simp] theorem State.readW_dbr : ((s.readW w l).2).dbr = s.dbr := by cases w <;> simp only [State.readW, State.read8_dbr, State.read16_dbr]
@[simp] theorem State.readW_pbr : ((s.readW w l).2).pbr = s.pbr := by cases w <;> simp only [State.readW, State.read8_pbr, State.read16_pbr]
@[simp] theorem State.readW_p : ((s.readW w l).2).p = s.p := by cases w <;> simp only [State.readW, State.read8_p, State.read16_p]
@[simp] theorem State.readW_e : ((s.readW w l).2).e = s.e := by cases w <;> simp only [State.readW, State.read8_e, State.read16_e]
@[simp] theorem State.readW_stopped : ((s.readW w l).2).stopped = s.stopped := by cases w <;> simp only [State.readW, State.read8_stopped, State.read16_stopped]
@[simp] theorem State.readW_waiting : ((s.readW w l).2).waiting = s.waiting := by cases w <;> simp only [State.readW, State.read8_waiting, State.read16_waiting]
@[simp] theorem State.readW_nmiPending : ((s.readW w l).2).nmiPending = s.nmiPending := by cases w <;> simp only [State.readW, State.read8_nmiPending, State.read16_nmiPending]
@[simp] theorem State.readW_irqLine : ((s.readW w l).2).irqLine = s.irqLine := by cases w <;> simp only [State.readW, State.read8_irqLine, State.read16_irqLine]
@[simp] theorem State.readW_inputs : ((s.readW w l).2).inputs = s.inputs := by cases w <;> simp only [State.readW, State.read8_inputs, State.read16_inputs]
@[simp] theorem State.readW_free : ((s.readW w l).2).free = s.free := by cases w <;> simp only [State.readW, State.read8_free, State.read16_free]
@[simp] theorem State.readW_flag (f0 : Flag) : ((s.readW w l).2).flag f0 = s.flag f0 := by simp only [State.flag, State.readW_p]
@[simp] theorem State.readW_wA : ((s.readW w l).2).wA = s.wA := by simp only [State.wA, State.readW_flag]
@[simp] theorem State.readW_wX : ((s.readW w l).2).wX = s.wX := by simp only [State.wX, State.readW_flag]
end readW

section writeW
variable (w : Width) (l : Loc) (v : Word)
@[simp] theorem State.writeW_c : (s.writeW w l v).c = s.c := by cases w <;> simp only [State.writeW, State.write8_c]
@[simp] theorem State.writeW_x : (s.writeW w l v).x = s.x := by cases w <;> simp only [State.writeW, State.write8_x]
@[simp] theorem State.writeW_y : (s.writeW w l v).y = s.y := by cases w <;> simp only [State.writeW, State.write8_y]
@[simp] theorem State.writeW_sp : (s.writeW w l v).sp = s.sp := by cases w <;> simp only [State.writeW, State.write8_sp]
@[simp] theorem State.writeW_d : (s.writeW w l v).d = s.d := by cases w <;> simp only [State.writeW, State.write8_d]
@[simp] theorem State.writeW_pc : (s.writeW w l v).pc = s.pc := by cases w <;> simp only [State.writeW, State.write8_pc]
@[simp] theorem State.writeW_dbr : (s.writeW w l v).dbr = s.dbr := by cases w <;> simp only [State.writeW, State.write8_dbr]
@[simp] theorem State.writeW_pbr : (s.writeW w l v).pbr = s.pbr := by cases w <;> simp only [State.writeW, State.write8_pbr]
@[simp] theorem State.writeW_p : (s.writeW w l v).p = s.p := by cases w <;> simp only [State.writeW, State.write8_p]
@[simp] theorem State.writeW_e : (s.writeW w l v).e = s.e := by cases w <;> simp only [State.writeW, State.write8_e]
@[simp] theorem State.writeW_stopped : (s.writeW w l v).stopped = s.stopped := by cases w <;> simp only [State.writeW, State.write8_stopped]
@[simp] theorem State.writeW_waiting : (s.writeW w l v).waiting = s.waiting := by cases w <;> simp only [State.writeW, State.write8_waiting]
@[simp] theorem State.writeW_nmiPending : (s.writeW w l v).nmiPending = s.nmiPending := by cases w <;> simp only [State.writeW, State.write8_nmiPending]
@[simp] theorem State.writeW_irqLine : (s.writeW w l v).irqLine = s.irqLine := by cases w <;> simp only [State.writeW, State.write8_irqLine]
@[simp] theorem State.writeW_inputs : (s.writeW w l v).inputs = s.inputs := by cases w <;> simp only [State.writeW, State.write8_inputs]
@[simp] theorem State.writeW_free : (s.writeW w l v).free = s.free := by cases w <;> simp only [State.writeW, State.write8_free]
@[simp] theorem State.writeW_flag (f0 : Flag) : (s.writeW w l v).flag f0 = s.flag f0 := by simp only [State.flag, State.writeW_p]
@[simp] theorem State.writeW_wA : (s.writeW w l v).wA = s.wA := by simp only [State.wA, State.writeW_flag]
@[simp] theorem State.writeW_wX : (s.writeW w l v).wX = s.wX := by simp only [State.wX, State.writeW_flag]
end writeW

section writeWHighFirst
variable (w : Width) (l : Loc) (v : Word)
@[simp] theorem State.writeWHighFirst_c : (s.writeWHighFirst w l v).c = s.c := by cases w <;> simp only [State.writeWHighFirst, State.write8_c]
@[simp] theorem State.writeWHighFirst_x : (s.writeWHighFirst w l v).x = s.x := by cases w <;> simp only [State.writeWHighFirst, State.write8_x]
@[simp] theorem State.writeWHighFirst_y : (s.writeWHighFirst w l v).y = s.y := by cases w <;> simp only [State.writeWHighFirst, State.write8_y]
@[simp] theorem State.writeWHighFirst_sp : (s.writeWHighFirst w l v).sp = s.sp := by cases w <;> simp only [State.writeWHighFirst, State.write8_sp]
@[simp] theorem State.writeWHighFirst_d : (s.writeWHighFirst w l v).d = s.d := by cases w <;> simp only [State.writeWHighFirst, State.write8_d]
@[simp] theorem State.writeWHighFirst_pc : (s.writeWHighFirst w l v).pc = s.pc := by cases w <;> simp only [State.writeWHighFirst, State.write8_pc]
@[simp] theorem State.writeWHighFirst_dbr : (s.writeWHighFirst w l v).dbr = s.dbr := by cases w <;> simp only [State.writeWHighFirst, State.write8_dbr]
@[simp] theorem State.writeWHighFirst_pbr : (s.writeWHighFirst w l v).pbr = s.pbr := by cases w <;> simp only [State.writeWHighFirst, State.write8_pbr]
@[simp] theorem State.writeWHighFirst_p : (s.writeWHighFirst w l v).p = s.p := by cases w <;> simp only [State.writeWHighFirst, State.write8_p]
@[simp] theorem State.writeWHighFirst_e : (s.writeWHighFirst w l v).e = s.e := by cases w <;> simp only [State.writeWHighFirst, State.write8_e]
@[simp] theorem State.writeWHighFirst_stopped : (s.writeWHighFirst w l v).stopped = s.stopped := by cases w <;> simp only [State.writeWHighFirst, State.write8_stopped]
@[simp] theorem State.writeWHighFirst_waiting : (s.writeWHighFirst w l v).waiting = s.waiting := by cases w <;> simp only [State.writeWHighFirst, State.write8_waiting]
@[simp] theorem State.writeWHighFirst_nmiPending : (s.writeWHighFirst w l v).nmiPending = s.nmiPending := by cases w <;> simp only [State.writeWHighFirst, State.write8_nmiPending]
@[simp] theorem State.writeWHighFirst_irqLine : (s.writeWHighFirst w l v).irqLine = s.irqLine := by cases w <;> simp only [State.writeWHighFirst, State.write8_irqLine]
@[simp] theorem State.writeWHighFirst_inputs : (s.writeWHighFirst w l v).inputs = s.inputs := by cases w <;> simp only [State.writeWHighFirst, State.write8_inputs]
@[simp] theorem State.writeWHighFirst_free : (s.writeWHighFirst w l v).free = s.free := by cases w <;> simp only [State.writeWHighFirst, State.write8_free]
@[simp] theorem State.writeWHighFirst_flag (f0 : Flag) : (s.writeWHighFirst w l v).flag f0 = s.flag f0 := by simp only [State.flag, State.writeWHighFirst_p]
@[simp] theorem State.writeWHighFirst_wA : (s.writeWHighFirst w l v).wA = s.wA := by simp only [State.wA, State.writeWHighFirst_flag]
@[simp] theorem State.writeWHighFirst_wX : (s.writeWHighFirst w l v).wX = s.wX := by simp only [State.wX, State.writeWHighFirst_flag]
end writeWHighFirst

section push8
variable (v : Byte)
@[simp] theorem State.push8_c : (s.push8 v).c = s.c := rfl
@[simp] theorem State.push8_x : (s.push8 v).x = s.x := rfl
@[simp] theorem State.push8_y : (s.push8 v).y = s.y := rfl
@[simp] theorem State.push8_d : (s.push8 v).d = s.d := rfl
@[simp] theorem State.push8_pc : (s.push8 v).pc = s.pc := rfl
@[simp] theorem State.push8_dbr : (s.push8 v).dbr = s.dbr := rfl
@[simp] theorem State.push8_pbr : (s.push8 v).pbr = s.pbr := rfl
@[simp] theorem State.push8_p : (s.push8 v).p = s.p := rfl
@[simp] theorem State.push8_e : (s.push8 v).e = s.e := rfl
@[simp] theorem State.push8_stopped : (s.push8 v).stopped = s.stopped := rfl
@[simp] theorem State.push8_waiting : (s.push8 v).waiting = s.waiting := rfl
@[simp] theorem State.push8_nmiPending : (s.push8 v).nmiPending = s.nmiPending := rfl
@[simp] theorem State.push8_irqLine : (s.push8 v).irqLine = s.irqLine := rfl
@[simp] theorem State.push8_inputs : (s.push8 v).inputs = s.inputs := rfl
@[simp] theorem State.push8_free : (s.push8 v).free = s.free := rfl
@[simp] theorem State.push8_flag (f0 : Flag) : (s.push8 v).flag f0 = s.flag f0 := by simp only [State.flag, State.push8_p]
@[simp] theorem State.push8_wA : (s.push8 v).wA = s.wA := by simp only [State.wA, State.push8_flag]
@[simp] theorem State.push8_wX : (s.push8 v).wX = s.wX := by simp only [State.wX, State.push8_flag]
end push8

section push16
variable (v : Word)
@[simp] theorem State.push16_c : (s.push16 v).c = s.c := by simp only [State.push16, State.push8_c]
@[simp] theorem State.push16_x : (s.push16 v).x = s.x := by simp only [State.push16, State.push8_x]
@[simp] theorem State.push16_y : (s.push16 v).y = s.y := by simp only [State.push16, State.push8_y]
@[simp] theorem State.push16_d : (s.push16 v).d = s.d := by simp only [State.push16, State.push8_d]
@[simp] theorem State.push16_pc : (s.push16 v).pc = s.pc := by simp only [State.push16, State.push8_pc]
@[simp] theorem State.push16_dbr : (s.push16 v).dbr = s.dbr := by simp only [State.push16, State.push8_dbr]
@[simp] theorem State.push16_pbr : (s.push16 v).pbr = s.pbr := by simp only [State.push16, State.push8_pbr]
@[simp] theorem State.push16_p : (s.push16 v).p = s.p := by simp only [State.push16, State.push8_p]
@[simp] theorem State.push16_e : (s.push16 v).e = s.e := by simp only [State.push16, State.push8_e]
@[simp] theorem State.push16_stopped : (s.push16 v).stopped = s.stopped := by simp only [State.push16, State.push8_stopped]
@[simp] theorem State.push16_waiting : (s.push16 v).waiting = s.waiting := by simp only [State.push16, State.push8_waiting]
@[simp] theorem State.push16_nmiPending : (s.push16 v).nmiPending = s.nmiPending := by simp only [State.push16, State.push8_nmiPending]
@[simp] theorem State.push16_irqLine : (s.push16 v).irqLine = s.irqLine := by simp only [State.push16, State.push8_irqLine]
@[simp] theorem State.push16_inputs : (s.push16 v).inputs = s.inputs := by simp only [State.push16, State.push8_inputs]
@[simp] theorem State.push16_free : (s.push16 v).free = s.free := by simp only [State.push16, State.push8_free]
@[simp] theorem State.push16_flag (f0 : Flag) : (s.push16 v).flag f0 = s.flag f0 := by simp only [State.flag, State.push16_p]
@[simp] theorem State.push16_wA : (s.push16 v).wA = s.wA := by simp only [State.wA, State.push16_flag]
@[simp] theorem State.push16_wX : (s.push16 v).wX = s.wX := by simp only [State.wX, State.push16_flag]
end push16

section pull8
@[simp] theorem State.pull8_c : (s.pull8.2).c = s.c := rfl
@[simp] theorem State.pull8_x : (s.pull8.2).x = s.x := rfl
@[simp] theorem State.pull8_y : (s.pull8.2).y = s.y := rfl
@[simp] theorem State.pull8_d : (s.pull8.2).d = s.d := rfl
@[simp] theorem State.pull8_pc : (s.pull8.2).pc = s.pc := rfl
@[simp] theorem State.pull8_dbr : (s.pull8.2).dbr = s.dbr := rfl
@[simp] theorem State.pull8_pbr : (s.pull8.2).pbr = s.pbr := rfl
@[simp] theorem State.pull8_p : (s.pull8.2).p = s.p := rfl
@[simp] theorem State.pull8_e : (s.pull8.2).e = s.e := rfl
@[simp] theorem State.pull8_stopped : (s.pull8.2).stopped = s.stopped := rfl
@[simp] theorem State.pull8_waiting : (s.pull8.2).waiting = s.waiting := rfl
@[simp] theorem State.pull8_nmiPending : (s.pull8.2).nmiPending = s.nmiPending := rfl
@[simp] theorem State.pull8_irqLine : (s.pull8.2).irqLine = s.irqLine := rfl
@[simp] theorem State.pull8_inputs : (s.pull8.2).inputs = s.inputs := rfl
@[simp] theorem State.pull8_free : (s.pull8.2).free = s.free := rfl
@[simp] theorem State.pull8_flag (f0 : Flag) : (s.pull8.2).flag f0 = s.flag f0 := by simp only [State.flag, State.pull8_p]
@[simp] theorem State.pull8_wA : (s.pull8.2).wA = s.wA := by simp only [State.wA, State.pull8_flag]
@[simp] theorem State.pull8_wX : (s.pull8.2).wX = s.wX := by simp only [State.wX, State.pull8_flag]
end pull8

section pull16
@[simp] theorem State.pull16_c : (s.pull16.2).c = s.c := by simp only [State.pull16, State.pull8_c]
@[simp] theorem State.pull16_x : (s.pull16.2).x = s.x := by simp only [State.pull16, State.pull8_x]
@[simp] theorem State.pull16_y : (s.pull16.2).y = s.y := by simp only [State.pull16, State.pull8_y]
@[simp] theorem State.pull16_d : (s.pull16.2).d = s.d := by simp only [State.pull16, State.pull8_d]
@[simp] theorem State.pull16_pc : (s.pull16.2).pc = s.pc := by simp only [State.pull16, State.pull8_pc]
@[simp] theorem State.pull16_dbr : (s.pull16.2).dbr = s.dbr := by simp only [State.pull16, State.pull8_dbr]
@[simp] theorem State.pull16_pbr : (s.pull16.2).pbr = s.pbr := by simp only [State.pull16, State.pull8_pbr]
@[simp] theorem State.pull16_p : (s.pull16.2).p = s.p := by simp only [State.pull16, State.pull8_p]
@[simp] theorem State.pull16_e : (s.pull16.2).e = s.e := by simp only [State.pull16, State.pull8_e]
@[simp] theorem State.pull16_stopped : (s.pull16.2).stopped = s.stopped := by simp only [State.pull16, State.pull8_stopped]
@[simp] theorem State.pull16_waiting : (s.pull16.2).waiting = s.waiting := by simp only [State.pull16, State.pull8_waiting]
@[simp] theorem State.pull16_nmiPending : (s.pull16.2).nmiPending = s.nmiPending := by simp only [State.pull16, State.pull8_nmiPending]
@[simp] theorem State.pull16_irqLine : (s.pull16.2).irqLine = s.irqLine := by simp only [State.pull16, State.pull8_irqLine]
@[simp] theorem State.pull16_inputs : (s.pull16.2).inputs = s.inputs := by simp only [State.pull16, State.pull8_inputs]
@[simp] theorem State.pull16_free : (s.pull16.2).free = s.free := by simp only [State.pull16, State.pull8_free]
@[simp] theorem State.pull16_flag (f0 : Flag) : (s.pull16.2).flag f0 = s.flag f0 := by simp only [State.flag, State.pull16_p]
@[simp] theorem State.pull16_wA : (s.pull16.2).wA = s.wA := by simp only [State.wA, State.pull16_flag]
@[simp] theorem State.pull16_wX : (s.pull16.2).wX = s.wX := by simp only [State.wX, State.pull16_flag]
end pull16

section push8N
variable (v : Byte)
@[simp] theorem State.push8N_c : (s.push8N v).c = s.c := rfl
@[simp] theorem State.push8N_x : (s.push8N v).x = s.x := rfl
@[simp] theorem State.push8N_y : (s.push8N v).y = s.y := rfl
@[simp] theorem State.push8N_d : (s.push8N v).d = s.d := rfl
@[simp] theorem State.push8N_pc : (s.push8N v).pc = s.pc := rfl
@[simp] theorem State.push8N_dbr : (s.push8N v).dbr = s.dbr := rfl
@[simp] theorem State.push8N_pbr : (s.push8N v).pbr = s.pbr := rfl
@[simp] theorem State.push8N_p : (s.push8N v).p = s.p := rfl
@[simp] theorem State.push8N_e : (s.push8N v).e = s.e := rfl
@[simp] theorem State.push8N_stopped : (s.push8N v).stopped = s.stopped := rfl
@[simp] theorem State.push8N_waiting : (s.push8N v).waiting = s.waiting := rfl
@[simp] theorem State.push8N_nmiPending : (s.push8N v).nmiPending = s.nmiPending := rfl
@[simp] theorem State.push8N_irqLine : (s.push8N v).irqLine = s.irqLine := rfl
@[simp] theorem State.push8N_inputs : (s.push8N v).inputs = s.inputs := rfl
@[simp] theorem State.push8N_free : (s.push8N v).free = s.free := rfl
@[simp] theorem State.push8N_flag (f0 : Flag) : (s.push8N v).flag f0 = s.flag f0 := by simp only [State.flag, State.push8N_p]
@[simp] theorem State.push8N_wA : (s.push8N v).wA = s.wA := by simp only [State.wA, State.push8N_flag]
@[simp] theorem State.push8N_wX : (s.push8N v).wX = s.wX := by simp only [State.wX, State.push8N_flag]
end push8N

section push16N
variable (v : Word)
@[simp] theorem State.push16N_c : (s.push16N v).c = s.c := by simp only [State.push16N, State.push8N_c]
@[simp] theorem State.push16N_x : (s.push16N v).x = s.x := by simp only [State.push16N, State.push8N_x]
@[simp] theorem State.push16N_y : (s.push16N v).y = s.y := by simp only [State.push16N, State.push8N_y]
@[simp] theorem State.push16N_d : (s.push16N v).d = s.d := by simp only [State.push16N, State.push8N_d]
@[simp] theorem State.push16N_pc : (s.push16N v).pc = s.pc := by simp only [State.push16N, State.push8N_pc]
@[simp] theorem State.push16N_dbr : (s.push16N v).dbr = s.dbr := by simp only [State.push16N, State.push8N_dbr]
@[simp] theorem State.push16N_pbr : (s.push16N v).pbr = s.pbr := by simp only [State.push16N, State.push8N_pbr]
@[simp] theorem State.push16N_p : (s.push16N v).p = s.p := by simp only [State.push16N, State.push8N_p]
@[simp] theorem State.push16N_e : (s.push16N v).e = s.e := by simp only [State.push16N, State.push8N_e]
@[simp] theorem State.push16N_stopped : (s.push16N v).stopped = s.stopped := by simp only [State.push16N, State.push8N_stopped]
@[simp] theorem State.push16N_waiting : (s.push16N v).waiting = s.waiting := by simp only [State.push16N, State.push8N_waiting]
@[simp] theorem State.push16N_nmiPending : (s.push16N v).nmiPending = s.nmiPending := by simp only [State.push16N, State.push8N_nmiPending]
@[simp] theorem State.push16N_irqLine : (s.push16N v).irqLine = s.irqLine := by simp only [State.push16N, State.push8N_irqLine]
@[simp] theorem State.push16N_inputs : (s.push16N v).inputs = s.inputs := by simp only [State.push16N, State.push8N_inputs]
@[simp] theorem State.push16N_free : (s.push16N v).free = s.free := by simp only [State.push16N, State.push8N_free]
@[simp] theorem State.push16N_flag (f0 : Flag) : (s.push16N v).flag f0 = s.flag f0 := by simp only [State.flag, State.push16N_p]
@[simp] theorem State.push16N_wA : (s.push16N v).wA = s.wA := by simp only [State.wA, State.push16N_flag]
@[simp] theorem State.push16N_wX : (s.push16N v).wX = s.wX := by simp only [State.wX, State.push16N_flag]
end push16N

section pull8N
@[simp] theorem State.pull8N_c : (s.pull8N.2).c = s.c := rfl
@[simp] theorem State.pull8N_x : (s.pull8N.2).x = s.x := rfl
@[simp] theorem State.pull8N_y : (s.pull8N.2).y = s.y := rfl
@[simp] theorem State.pull8N_d : (s.pull8N.2).d = s.d := rfl
@[simp] theorem State.pull8N_pc : (s.pull8N.2).pc = s.pc := rfl
@[simp] theorem State.pull8N_dbr : (s.pull8N.2).dbr = s.dbr := rfl
@[simp] theorem State.pull8N_pbr : (s.pull8N.2).pbr = s.pbr := rfl
@[simp] theorem State.pull8N_p : (s.pull8N.2).p = s.p := rfl
@[simp] theorem State.pull8N_e : (s.pull8N.2).e = s.e := rfl
@[simp] theorem State.pull8N_stopped : (s.pull8N.2).stopped = s.stopped := rfl
@[simp] theorem State.pull8N_waiting : (s.pull8N.2).waiting = s.waiting := rfl
@[simp] theorem State.pull8N_nmiPending : (s.pull8N.2).nmiPending = s.nmiPending := rfl
@[simp] theorem State.pull8N_irqLine : (s.pull8N.2).irqLine = s.irqLine := rfl
@[simp] theorem State.pull8N_inputs : (s.pull8N.2).inputs = s.inputs := rfl
@[simp] theorem State.pull8N_free : (s.pull8N.2).free = s.free := rfl
@[simp] theorem State.pull8N_flag (f0 : Flag) : (s.pull8N.2).flag f0 = s.flag f0 := by simp only [State.flag, State.pull8N_p]
@[simp] theorem State.pull8N_wA : (s.pull8N.2).wA = s.wA := by simp only [State.wA, State.pull8N_flag]
@[simp] theorem State.pull8N_wX : (s.pull8N.2).wX = s.wX := by simp only [State.wX, State.pull8N_flag]
end pull8N

section pull16N
@[simp] theorem State.pull16N_c : (s.pull16N.2).c = s.c := by simp only [State.pull16N, State.pull8N_c]
@[simp] theorem State.pull16N_x : (s.pull16N.2).x = s.x := by simp only [State.pull16N, State.pull8N_x]
@[simp] theorem State.pull16N_y : (s.pull16N.2).y = s.y := by simp only [State.pull16N, State.pull8N_y]
@[simp] theorem State.pull16N_d : (s.pull16N.2).d = s.d := by simp only [State.pull16N, State.pull8N_d]
@[simp] theorem State.pull16N_pc : (s.pull16N.2).pc = s.pc := by simp only [State.pull16N, State.pull8N_pc]
@[simp] theorem State.pull16N_dbr : (s.pull16N.2).dbr = s.dbr := by simp only [State.pull16N, State.pull8N_dbr]
@[simp] theorem State.pull16N_pbr : (s.pull16N.2).pbr = s.pbr := by simp only [State.pull16N, State.pull8N_pbr]
@[simp] theorem State.pull16N_p : (s.pull16N.2).p = s.p := by simp only [State.pull16N, State.pull8N_p]
@[simp] theorem State.pull16N_e : (s.pull16N.2).e = s.e := by simp only [State.pull16N, State.pull8N_e]
@[simp] theorem State.pull16N_stopped : (s.pull16N.2).stopped = s.stopped := by simp only [State.pull16N, State.pull8N_stopped]
@[simp] theorem State.pull16N_waiting : (s.pull16N.2).waiting = s.waiting := by simp only [State.pull16N, State.pull8N_waiting]
@[simp] theorem State.pull16N_nmiPending : (s.pull16N.2).nmiPending = s.nmiPending := by simp only [State.pull16N, State.pull8N_nmiPending]
@[simp] theorem State.pull16N_irqLine : (s.pull16N.2).irqLine = s.irqLine := by simp only [State.pull16N, State.pull8N_irqLine]
@[simp] theorem State.pull16N_inputs : (s.pull16N.2).inputs = s.inputs := by simp only [State.pull16N, State.pull8N_inputs]
@[simp] theorem State.pull16N_free : (s.pull16N.2).free = s.free := by simp only [State.pull16N, State.pull8N_free]
@[simp] theorem State.pull16N_flag (f0 : Flag) : (s.pull16N.2).flag f0 = s.flag f0 := by simp only [State.flag, State.pull16N_p]
@[simp] theorem State.pull16N_wA : (s.pull16N.2).wA = s.wA := by simp only [State.wA, State.pull16N_flag]
@[simp] theorem State.pull16N_wX : (s.pull16N.2).wX = s.wX := by simp only [State.wX, State.pull16N_flag]
end pull16N

section fixStackPage
@[simp] theorem State.fixStackPage_c : (s.fixStackPage).c = s.c := by unfold State.fixStackPage; split <;> rfl
@[simp] theorem State.fixStackPage_x : (s.fixStackPage).x = s.x := by unfold State.fixStackPage; split <;> rfl
@[simp] theorem State.fixStackPage_y : (s.fixStackPage).y = s.y := by unfold State.fixStackPage; split <;> rfl
@[simp] theorem State.fixStackPage_d : (s.fixStackPage).d = s.d := by unfold State.fixStackPage; split <;> rfl
@[simp] theorem State.fixStackPage_pc : (s.fixStackPage).pc = s.pc := by unfold State.fixStackPage; split <;> rfl
@[simp] theorem State.fixStackPage_dbr : (s.fixStackPage).dbr = s.dbr := by unfold State.fixStackPage; split <;> rfl
@[simp] theorem State.fixStackPage_pbr : (s.fixStackPage).pbr = s.pbr := by unfold State.fixStackPage; split <;> rfl
@[simp] theorem State.fixStackPage_p : (s.fixStackPage).p = s.p := by unfold State.fixStackPage; split <;> rfl
@[simp] theorem State.fixStackPage_e : (s.fixStackPage).e = s.e := by unfold State.fixStackPage; split <;> rfl
@[simp] theorem State.fixStackPage_stopped : (s.fixStackPage).stopped = s.stopped := by unfold State.fixStackPage; split <;> rfl
@[simp] theorem State.fixStackPage_waiting : (s.fixStackPage).waiting = s.waiting := by unfold State.fixStackPage; split <;> rfl
@[simp] theorem State.fixStackPage_nmiPending : (s.fixStackPage).nmiPending = s.nmiPending := by unfold State.fixStackPage; split <;> rfl
@[simp] theorem State.fixStackPage_irqLine : (s.fixStackPage).irqLine = s.irqLine := by unfold State.fixStackPage; split <;> rfl
@[simp] theorem State.fixStackPage_inputs : (s.fixStackPage).inputs = s.inputs := by unfold State.fixStackPage; split <;> rfl
@[simp] theorem State.fixStackPage_free : (s.fixStackPage).free = s.free := by unfold State.fixStackPage; split <;> rfl
@[simp] theorem State.fixStackPage_sys : (s.fixStackPage).sys = s.sys := by unfold State.fixStackPage; split <;> rfl
@[simp] theorem State.fixStackPage_flag (f0 : Flag) : (s.fixStackPage).flag f0 = s.flag f0 := by simp only [State.flag, State.fixStackPage_p]
@[simp] theorem State.fixStackPage_wA : (s.fixStackPage).wA = s.wA := by simp only [State.wA, State.fixStackPage_flag]
@[simp] theorem State.fixStackPage_wX : (s.fixStackPage).wX = s.wX := by simp only [State.wX, State.fixStackPage_flag]
end fixStackPage

section pushW
variable (w : Width) (v : Word)
@[simp] theorem State.pushW_c : (s.pushW w v).c = s.c := by cases w <;> simp only [State.pushW, State.push8_c, State.push16_c]
@[simp] theorem State.pushW_x : (s.pushW w v).x = s.x := by cases w <;> simp only [State.pushW, State.push8_x, State.push16_x]
@[simp] theorem State.pushW_y : (s.pushW w v).y = s.y := by cases w <;> simp only [State.pushW, State.push8_y, State.push16_y]
@[simp] theorem State.pushW_d : (s.pushW w v).d = s.d := by cases w <;> simp only [State.pushW, State.push8_d, State.push16_d]
@[simp] theorem State.pushW_pc : (s.pushW w v).pc = s.pc := by cases w <;> simp only [State.pushW, State.push8_pc, State.push16_pc]
@[simp] theorem State.pushW_dbr : (s.pushW w v).dbr = s.dbr := by cases w <;> simp only [State.pushW, State.push8_dbr, State.push16_dbr]
@[simp] theorem State.pushW_pbr : (s.pushW w v).pbr = s.pbr := by cases w <;> simp only [State.pushW, State.push8_pbr, State.push16_pbr]
@[simp] theorem State.pushW_p : (s.pushW w v).p = s.p := by cases w <;> simp only [State.pushW, State.push8_p, State.push16_p]
@[simp] theorem State.pushW_e : (s.pushW w v).e = s.e := by cases w <;> simp only [State.pushW, State.push8_e, State.push16_e]
@[simp] theorem State.pushW_stopped : (s.pushW w v).stopped = s.stopped := by cases w <;> simp only [State.pushW, State.push8_stopped, State.push16_stopped]
@[simp] theorem State.pushW_waiting : (s.pushW w v).waiting = s.waiting := by cases w <;> simp only [State.pushW, State.push8_waiting, State.push16_waiting]
@[simp] theorem State.pushW_nmiPending : (s.pushW w v).nmiPending = s.nmiPending := by cases w <;> simp only [State.pushW, State.push8_nmiPending, State.push16_nmiPending]
@[simp] theorem State.pushW_irqLine : (s.pushW w v).irqLine = s.irqLine := by cases w <;> simp only [State.pushW, State.push8_irqLine, State.push16_irqLine]
@[simp] theorem State.pushW_inputs : (s.pushW w v).inputs = s.inputs := by cases w <;> simp only [State.pushW, State.push8_inputs, State.push16_inputs]
@[simp] theorem State.pushW_free : (s.pushW w v).free = s.free := by cases w <;> simp only [State.pushW, State.push8_free, State.push16_free]
@[simp] theorem State.pushW_flag (f0 : Flag) : (s.pushW w v).flag f0 = s.flag f0 := by simp only [State.flag, State.pushW_p]
@[simp] theorem State.pushW_wA : (s.pushW w v).wA = s.wA := by simp only [State.wA, State.pushW_flag]
@[simp] theorem State.pushW_wX : (s.pushW w v).wX = s.wX := by simp only [State.wX, State.pushW_flag]
end pushW

section pullW
variable (w : Width)
@[simp] theorem State.pullW_c : ((s.pullW w).2).c = s.c := by cases w <;> simp only [State.pullW, State.pull8_c, State.pull16_c]
@[simp] theorem State.pullW_x : ((s.pullW w).2).x = s.x := by cases w <;> simp only [State.pullW, State.pull8_x, State.pull16_x]
@[simp] theorem State.pullW_y : ((s.pullW w).2).y = s.y := by cases w <;> simp only [State.pullW, State.pull8_y, State.pull16_y]
@[simp] theorem State.pullW_d : ((s.pullW w).2).d = s.d := by cases w <;> simp only [State.pullW, State.pull8_d, State.pull16_d]
@[simp] theorem State.pullW_pc : ((s.pullW w).2).pc = s.pc := by cases w <;> simp only [State.pullW, State.pull8_pc, State.pull16_pc]
@[simp] theorem State.pullW_dbr : ((s.pullW w).2).dbr = s.dbr := by cases w <;> simp only [State.pullW, State.pull8_dbr, State.pull16_dbr]
@[simp] theorem State.pullW_pbr : ((s.pullW w).2).pbr = s.pbr := by cases w <;> simp only [State.pullW, State.pull8_pbr, State.pull16_pbr]
@[simp] theorem State.pullW_p : ((s.pullW w).2).p = s.p := by cases w <;> simp only [State.pullW, State.pull8_p, State.pull16_p]
@[simp] theorem State.pullW_e : ((s.pullW w).2).e = s.e := by cases w <;> simp only [State.pullW, State.pull8_e, State.pull16_e]
@[simp] theorem State.pullW_stopped : ((s.pullW w).2).stopped = s.stopped := by cases w <;> simp only [State.pullW, State.pull8_stopped, State.pull16_stopped]
@[simp] theorem State.pullW_waiting : ((s.pullW w).2).waiting = s.waiting := by cases w <;> simp only [State.pullW, State.pull8_waiting, State.pull16_waiting]
@[simp] theorem State.pullW_nmiPending : ((s.pullW w).2).nmiPending = s.nmiPending := by cases w <;> simp only [State.pullW, State.pull8_nmiPending, State.pull16_nmiPending]
@[simp] theorem State.pullW_irqLine : ((s.pullW w).2).irqLine = s.irqLine := by cases w <;> simp only [State.pullW, State.pull8_irqLine, State.pull16_irqLine]
@[simp] theorem State.pullW_inputs : ((s.pullW w).2).inputs = s.inputs := by cases w <;> simp only [State.pullW, State.pull8_inputs, State.pull16_inputs]
@[simp] theorem State.pullW_free : ((s.pullW w).2).free = s.free := by cases w <;> simp only [State.pullW, State.pull8_free, State.pull16_free]
@[simp] theorem State.pullW_flag (f0 : Flag) : ((s.pullW w).2).flag f0 = s.flag f0 := by simp only [State.flag, State.pullW_p]
@[simp] theorem State.pullW_wA : ((s.pullW w).2).wA = s.wA := by simp only [State.wA, State.pullW_flag]
@[simp] theorem State.pullW_wX : ((s.pullW w).2).wX = s.wX := by simp only [State.wX, State.pullW_flag]
end pullW

section normalize
@[simp] theorem State.normalize_c : (s.normalize).c = s.c := by unfold State.normalize; dsimp only; split <;> split <;> rfl
@[simp] theorem State.normalize_d : (s.normalize).d = s.d := by unfold State.normalize; dsimp only; split <;> split <;> rfl
@[simp] theorem State.normalize_pc : (s.normalize).pc = s.pc := by unfold State.normalize; dsimp only; split <;> split <;> rfl
@[simp] theorem State.normalize_dbr : (s.normalize).dbr = s.dbr := by unfold State.normalize; dsimp only; split <;> split <;> rfl
@[simp] theorem State.normalize_pbr : (s.normalize).pbr = s.pbr := by unfold State.normalize; dsimp only; split <;> split <;> rfl
@[simp] theorem State.normalize_e : (s.normalize).e = s.e := by unfold State.normalize; dsimp only; split <;> split <;> rfl
@[simp] theorem State.normalize_stopped : (s.normalize).stopped = s.stopped := by unfold State.normalize; dsimp only; split <;> split <;> rfl
@[simp] theorem State.normalize_waiting : (s.normalize).waiting = s.waiting := by unfold State.normalize; dsimp only; split <;> split <;> rfl
@[simp] theorem State.normalize_nmiPending : (s.normalize).nmiPending = s.nmiPending := by unfold State.normalize; dsimp only; split <;> split <;> rfl
@[simp] theorem State.normalize_irqLine : (s.normalize).irqLine = s.irqLine := by unfold State.normalize; dsimp only; split <;> split <;> rfl
@[simp] theorem State.normalize_inputs : (s.normalize).inputs = s.inputs := by unfold State.normalize; dsimp only; split <;> split <;> rfl
@[simp] theorem State.normalize_free : (s.normalize).free = s.free := by unfold State.normalize; dsimp only; split <;> split <;> rfl
@[simp] theorem State.normalize_sys : (s.normalize).sys = s.sys := by unfold State.normalize; dsimp only; split <;> split <;> rfl
end normalize

section resolve
variable (m : Mode)
@[simp] theorem Mode.resolve_c : ((m.resolve s).2).c = s.c := by cases m <;> simp only [Mode.resolve, State.read16_c, State.read24_c]
@[simp] theorem Mode.resolve_x : ((m.resolve s).2).x = s.x := by cases m <;> simp only [Mode.resolve, State.read16_x, State.read24_x]
@[simp] theorem Mode.resolve_y : ((m.resolve s).2).y = s.y := by cases m <;> simp only [Mode.resolve, State.read16_y, State.read24_y]
@[simp] theorem Mode.resolve_sp : ((m.resolve s).2).sp = s.sp := by cases m <;> simp only [Mode.resolve, State.read16_sp, State.read24_sp]
@[simp] theorem Mode.resolve_d : ((m.resolve s).2).d = s.d := by cases m <;> simp only [Mode.resolve, State.read16_d, State.read24_d]
@[simp] theorem Mode.resolve_pc : ((m.resolve s).2).pc = s.pc := by cases m <;> simp only [Mode.resolve, State.read16_pc, State.read24_pc]
@[simp] theorem Mode.resolve_dbr : ((m.resolve s).2).dbr = s.dbr := by cases m <;> simp only [Mode.resolve, State.read16_dbr, State.read24_dbr]
@[simp] theorem Mode.resolve_pbr : ((m.resolve s).2).pbr = s.pbr := by cases m <;> simp only [Mode.resolve, State.read16_pbr, State.read24_pbr]
@[simp] theorem Mode.resolve_p : ((m.resolve s).2).p = s.p := by cases m <;> simp only [Mode.resolve, State.read16_p, State.read24_p]
@[simp] theorem Mode.resolve_e : ((m.resolve s).2).e = s.e := by cases m <;> simp only [Mode.resolve, State.read16_e, State.read24_e]
@[simp] theorem Mode.resolve_stopped : ((m.resolve s).2).stopped = s.stopped := by cases m <;> simp only [Mode.resolve, State.read16_stopped, State.read24_stopped]
@[simp] theorem Mode.resolve_waiting : ((m.resolve s).2).waiting = s.waiting := by cases m <;> simp only [Mode.resolve, State.read16_waiting, State.read24_waiting]
@[simp] theorem Mode.resolve_nmiPending : ((m.resolve s).2).nmiPending = s.nmiPending := by cases m <;> simp only [Mode.resolve, State.read16_nmiPending, State.read24_nmiPending]
@[simp] theorem Mode.resolve_irqLine : ((m.resolve s).2).irqLine = s.irqLine := by cases m <;> simp only [Mode.resolve, State.read16_irqLine, State.read24_irqLine]
@[simp] theorem Mode.resolve_inputs : ((m.resolve s).2).inputs = s.inputs := by cases m <;> simp only [Mode.resolve, State.read16_inputs, State.read24_inputs]
@[simp] theorem Mode.resolve_free : ((m.resolve s).2).free = s.free := by cases m <;> simp only [Mode.resolve, State.read16_free, State.read24_free]
@[simp] theorem Mode.resolve_flag (f0 : Flag) : ((m.resolve s).2).flag f0 = s.flag f0 := by simp only [State.flag, Mode.resolve_p]
@[simp] theorem Mode.resolve_wA : ((m.resolve s).2).wA = s.wA := by simp only [State.wA, Mode.resolve_flag]
@[simp] theorem Mode.resolve_wX : ((m.resolve s).2).wX = s.wX := by simp only [State.wX, Mode.resolve_flag]
end resolve

section read
variable (w : Width) (q : Source)
@[simp] theorem Source.read_c : ((q.read w s).2).c = s.c := by cases q <;> simp only [Source.read, State.readW_c, Mode.resolve_c]
@[simp] theorem Source.read_x : ((q.read w s).2).x = s.x := by cases q <;> simp only [Source.read, State.readW_x, Mode.resolve_x]
@[simp] theorem Source.read_y : ((q.read w s).2).y = s.y := by cases q <;> simp only [Source.read, State.readW_y, Mode.resolve_y]
@[simp] theorem Source.read_sp : ((q.read w s).2).sp = s.sp := by cases q <;> simp only [Source.read, State.readW_sp, Mode.resolve_sp]
@[simp] theorem Source.read_d : ((q.read w s).2).d = s.d := by cases q <;> simp only [Source.read, State.readW_d, Mode.resolve_d]
@[simp] theorem Source.read_pc : ((q.read w s).2).pc = s.pc := by cases q <;> simp only [Source.read, State.readW_pc, Mode.resolve_pc]
@[simp] theorem Source.read_dbr : ((q.read w s).2).dbr = s.dbr := by cases q <;> simp only [Source.read, State.readW_dbr, Mode.resolve_dbr]
@[simp] theorem Source.read_pbr : ((q.read w s).2).pbr = s.pbr := by cases q <;> simp only [Source.read, State.readW_pbr, Mode.resolve_pbr]
@[simp] theorem Source.read_p : ((q.read w s).2).p = s.p := by cases q <;> simp only [Source.read, State.readW_p, Mode.resolve_p]
@[simp] theorem Source.read_e : ((q.read w s).2).e = s.e := by cases q <;> simp only [Source.read, State.readW_e, Mode.resolve_e]
@[simp] theorem Source.read_stopped : ((q.read w s).2).stopped = s.stopped := by cases q <;> simp only [Source.read, State.readW_stopped, Mode.resolve_stopped]
@[simp] theorem Source.read_waiting : ((q.read w s).2).waiting = s.waiting := by cases q <;> simp only [Source.read, State.readW_waiting, Mode.resolve_waiting]
@[simp] theorem Source.read_nmiPending : ((q.read w s).2).nmiPending = s.nmiPending := by cases q <;> simp only [Source.read, State.readW_nmiPending, Mode.resolve_nmiPending]
@[simp] theorem Source.read_irqLine : ((q.read w s).2).irqLine = s.irqLine := by cases q <;> simp only [Source.read, State.readW_irqLine, Mode.resolve_irqLine]
@[simp] theorem Source.read_inputs : ((q.read w s).2).inputs = s.inputs := by cases q <;> simp only [Source.read, State.readW_inputs, Mode.resolve_inputs]
@[simp] theorem Source.read_free : ((q.read w s).2).free = s.free := by cases q <;> simp only [Source.read, State.readW_free, Mode.resolve_free]
@[simp] theorem Source.read_flag (f0 : Flag) : ((q.read w s).2).flag f0 = s.flag f0 := by simp only [State.flag, Source.read_p]
@[simp] theorem Source.read_wA : ((q.read w s).2).wA = s.wA := by simp only [State.wA, Source.read_flag]
@[simp] theorem Source.read_wX : ((q.read w s).2).wX = s.wX := by simp only [State.wX, Source.read_flag]
end read

section store
variable (w : Width) (m : Mode) (v : Word)
@[simp] theorem Mode.store_c : (m.store w v s).c = s.c := by simp only [Mode.store, State.writeW_c, Mode.resolve_c]
@[simp] theorem Mode.store_x : (m.store w v s).x = s.x := by simp only [Mode.store, State.writeW_x, Mode.resolve_x]
@[simp] theorem Mode.store_y : (m.store w v s).y = s.y := by simp only [Mode.store, State.writeW_y, Mode.resolve_y]
@[simp] theorem Mode.store_sp : (m.store w v s).sp = s.sp := by simp only [Mode.store, State.writeW_sp, Mode.resolve_sp]
@[simp] theorem Mode.store_d : (m.store w v s).d = s.d := by simp only [Mode.store, State.writeW_d, Mode.resolve_d]
@[simp] theorem Mode.store_pc : (m.store w v s).pc = s.pc := by simp only [Mode.store, State.writeW_pc, Mode.resolve_pc]
@[simp] theorem Mode.store_dbr : (m.store w v s).dbr = s.dbr := by simp only [Mode.store, State.writeW_dbr, Mode.resolve_dbr]
@[simp] theorem Mode.store_pbr : (m.store w v s).pbr = s.pbr := by simp only [Mode.store, State.writeW_pbr, Mode.resolve_pbr]
@[simp] theorem Mode.store_p : (m.store w v s).p = s.p := by simp only [Mode.store, State.writeW_p, Mode.resolve_p]
@[simp] theorem Mode.store_e : (m.store w v s).e = s.e := by simp only [Mode.store, State.writeW_e, Mode.resolve_e]
@[simp] theorem Mode.store_stopped : (m.store w v s).stopped = s.stopped := by simp only [Mode.store, State.writeW_stopped, Mode.resolve_stopped]
@[simp] theorem Mode.store_waiting : (m.store w v s).waiting = s.waiting := by simp only [Mode.store, State.writeW_waiting, Mode.resolve_waiting]
@[simp] theorem Mode.store_nmiPending : (m.store w v s).nmiPending = s.nmiPending := by simp only [Mode.store, State.writeW_nmiPending, Mode.resolve_nmiPending]
@[simp] theorem Mode.store_irqLine : (m.store w v s).irqLine = s.irqLine := by simp only [Mode.store, State.writeW_irqLine, Mode.resolve_irqLine]
@[simp] theorem Mode.store_inputs : (m.store w v s).inputs = s.inputs := by simp only [Mode.store, State.writeW_inputs, Mode.resolve_inputs]
@[simp] theorem Mode.store_free : (m.store w v s).free = s.free := by simp only [Mode.store, State.writeW_free, Mode.resolve_free]
@[simp] theorem Mode.store_flag (f0 : Flag) : (m.store w v s).flag f0 = s.flag f0 := by simp only [State.flag, Mode.store_p]
@[simp] theorem Mode.store_wA : (m.store w v s).wA = s.wA := by simp only [State.wA, Mode.store_flag]
@[simp] theorem Mode.store_wX : (m.store w v s).wX = s.wX := by simp only [State.wX, Mode.store_flag]
end store

section modify
variable (w : Width) (q : Place) (g : Word → Word)
@[simp] theorem Place.modify_x : ((q.modify w g s).2).x = s.x := by
  cases q <;> simp only [Place.modify, State.setAcc_x, State.writeWHighFirst_x, State.readW_x, Mode.resolve_x]
@[simp] theorem Place.modify_y : ((q.modify w g s).2).y = s.y := by
  cases q <;> simp only [Place.modify, State.setAcc_y, State.writeWHighFirst_y, State.readW_y, Mode.resolve_y]
@[simp] theorem Place.modify_sp : ((q.modify w g s).2).sp = s.sp := by
  cases q <;> simp only [Place.modify, State.setAcc_sp, State.writeWHighFirst_sp, State.readW_sp, Mode.resolve_sp]
@[simp] theorem Place.modify_d : ((q.modify w g s).2).d = s.d := by
  cases q <;> simp only [Place.modify, State.setAcc_d, State.writeWHighFirst_d, State.readW_d, Mode.resolve_d]
@[simp] theorem Place.modify_pc : ((q.modify w g s).2).pc = s.pc := by
  cases q <;> simp only [Place.modify, State.setAcc_pc, State.writeWHighFirst_pc, State.readW_pc, Mode.resolve_pc]
@[simp] theorem Place.modify_dbr : ((q.modify w g s).2).dbr = s.dbr := by
  cases q <;> simp only [Place.modify, State.setAcc_dbr, State.writeWHighFirst_dbr, State.readW_dbr, Mode.resolve_dbr]
@[simp] theorem Place.modify_pbr : ((q.modify w g s).2).pbr = s.pbr := by
  cases q <;> simp only [Place.modify, State.setAcc_pbr, State.writeWHighFirst_pbr, State.readW_pbr, Mode.resolve_pbr]
@[simp] theorem Place.modify_p : ((q.modify w g s).2).p = s.p := by
  cases q <;> simp only [Place.modify, State.setAcc_p, State.writeWHighFirst_p, State.readW_p, Mode.resolve_p]
@[simp] theorem Place.modify_e : ((q.modify w g s).2).e = s.e := by
  cases q <;> simp only [Place.modify, State.setAcc_e, State.writeWHighFirst_e, State.readW_e, Mode.resolve_e]
@[simp] theorem Place.modify_stopped : ((q.modify w g s).2).stopped = s.stopped := by
  cases q <;> simp only [Place.modify, State.setAcc_stopped, State.writeWHighFirst_stopped, State.readW_stopped, Mode.resolve_stopped]
@[simp] theorem Place.modify_waiting : ((q.modify w g s).2).waiting = s.waiting := by
  cases q <;> simp only [Place.modify, State.setAcc_waiting, State.writeWHighFirst_waiting, State.readW_waiting, Mode.resolve_waiting]
@[simp] theorem Place.modify_nmiPending : ((q.modify w g s).2).nmiPending = s.nmiPending := by
  cases q <;> simp only [Place.modify, State.setAcc_nmiPending, State.writeWHighFirst_nmiPending, State.readW_nmiPending, Mode.resolve_nmiPending]
@[simp] theorem Place.modify_irqLine : ((q.modify w g s).2).irqLine = s.irqLine := by
  cases q <;> simp only [Place.modify, State.setAcc_irqLine, State.writeWHighFirst_irqLine, State.readW_irqLine, Mode.resolve_irqLine]
@[simp] theorem Place.modify_inputs : ((q.modify w g s).2).inputs = s.inputs := by
  cases q <;> simp only [Place.modify, State.setAcc_inputs, State.writeWHighFirst_inputs, State.readW_inputs, Mode.resolve_inputs]
@[simp] theorem Place.modify_free : ((q.modify w g s).2).free = s.free := by
  cases q <;> simp only [Place.modify, State.setAcc_free, State.writeWHighFirst_free, State.readW_free, Mode.resolve_free]
@[simp] theorem Place.modify_flag (f0 : Flag) : ((q.modify w g s).2).flag f0 = s.flag f0 := by simp only [State.flag, Place.modify_p]
@[simp] theorem Place.modify_wA : ((q.modify w g s).2).wA = s.wA := by simp only [State.wA, Place.modify_flag]
@[simp] theorem Place.modify_wX : ((q.modify w g s).2).wX = s.wX := by simp only [State.wX, Place.modify_flag]
end modify

section takeSum
variable (w : Width) (r : Sum)
@[simp] theorem State.takeSum_x : (s.takeSum w r).x = s.x := by simp only [State.takeSum, State.setNZ_x, State.setFlag_x, State.setAcc_x]
@[simp] theorem State.takeSum_y : (s.takeSum w r).y = s.y := by simp only [State.takeSum, State.setNZ_y, State.setFlag_y, State.setAcc_y]
@[simp] theorem State.takeSum_sp : (s.takeSum w r).sp = s.sp := by simp only [State.takeSum, State.setNZ_sp, State.setFlag_sp, State.setAcc_sp]
@[simp] theorem State.takeSum_d : (s.takeSum w r).d = s.d := by simp only [State.takeSum, State.setNZ_d, State.setFlag_d, State.setAcc_d]
@[simp] theorem State.takeSum_pc : (s.takeSum w r).pc = s.pc := by simp only [State.takeSum, State.setNZ_pc, State.setFlag_pc, State.setAcc_pc]
@[simp] theorem State.takeSum_dbr : (s.takeSum w r).dbr = s.dbr := by simp only [State.takeSum, State.setNZ_dbr, State.setFlag_dbr, State.setAcc_dbr]
@[simp] theorem State.takeSum_pbr : (s.takeSum w r).pbr = s.pbr := by simp only [State.takeSum, State.setNZ_pbr, State.setFlag_pbr, State.setAcc_pbr]
@[simp] theorem State.takeSum_e : (s.takeSum w r).e = s.e := by simp only [State.takeSum, State.setNZ_e, State.setFlag_e, State.setAcc_e]
@[simp] theorem State.takeSum_stopped : (s.takeSum w r).stopped = s.stopped := by simp only [State.takeSum, State.setNZ_stopped, State.setFlag_stopped, State.setAcc_stopped]
@[simp] theorem State.takeSum_waiting : (s.takeSum w r).waiting = s.waiting := by simp only [State.takeSum, State.setNZ_waiting, State.setFlag_waiting, State.setAcc_waiting]
@[simp] theorem State.takeSum_nmiPending : (s.takeSum w r).nmiPending = s.nmiPending := by simp only [State.takeSum, State.setNZ_nmiPending, State.setFlag_nmiPending, State.setAcc_nmiPending]
@[simp] theorem State.takeSum_irqLine : (s.takeSum w r).irqLine = s.irqLine := by simp only [State.takeSum, State.setNZ_irqLine, State.setFlag_irqLine, State.setAcc_irqLine]
@[simp] theorem State.takeSum_inputs : (s.takeSum w r).inputs = s.inputs := by simp only [State.takeSum, State.setNZ_inputs, State.setFlag_inputs, State.setAcc_inputs]
@[simp] theorem State.takeSum_free : (s.takeSum w r).free = s.free := by simp only [State.takeSum, State.setNZ_free, State.setFlag_free, State.setAcc_free]
@[simp] theorem State.takeSum_sys : (s.takeSum w r).sys = s.sys := by simp only [State.takeSum, State.setNZ_sys, State.setFlag_sys, State.setAcc_sys]
end takeSum

section drawIfDecimal
@[simp] theorem State.drawIfDecimal_c : (s.drawIfDecimal).c = s.c := by unfold State.drawIfDecimal; split <;> rfl
@[simp] theorem State.drawIfDecimal_x : (s.drawIfDecimal).x = s.x := by unfold State.drawIfDecimal; split <;> rfl
@[simp] theorem State.drawIfDecimal_y : (s.drawIfDecimal).y = s.y := by unfold State.drawIfDecimal; split <;> rfl
@[simp] theorem State.drawIfDecimal_sp : (s.drawIfDecimal).sp = s.sp := by unfold State.drawIfDecimal; split <;> rfl
@[simp] theorem State.drawIfDecimal_d : (s.drawIfDecimal).d = s.d := by unfold State.drawIfDecimal; split <;> rfl
@[simp] theorem State.drawIfDecimal_pc : (s.drawIfDecimal).pc = s.pc := by unfold State.drawIfDecimal; split <;> rfl
@[simp] theorem State.drawIfDecimal_dbr : (s.drawIfDecimal).dbr = s.dbr := by unfold State.drawIfDecimal; split <;> rfl
@[simp] theorem State.drawIfDecimal_pbr : (s.drawIfDecimal).pbr = s.pbr := by unfold State.drawIfDecimal; split <;> rfl
@[simp] theorem State.drawIfDecimal_p : (s.drawIfDecimal).p = s.p := by unfold State.drawIfDecimal; split <;> rfl
@[simp] theorem State.drawIfDecimal_e : (s.drawIfDecimal).e = s.e := by unfold State.drawIfDecimal; split <;> rfl
@[simp] theorem State.drawIfDecimal_stopped : (s.drawIfDecimal).stopped = s.stopped := by unfold State.drawIfDecimal; split <;> rfl
@[simp] theorem State.drawIfDecimal_waiting : (s.drawIfDecimal).waiting = s.waiting := by unfold State.drawIfDecimal; split <;> rfl
@[simp] theorem State.drawIfDecimal_nmiPending : (s.drawIfDecimal).nmiPending = s.nmiPending := by unfold State.drawIfDecimal; split <;> rfl
@[simp] theorem State.drawIfDecimal_irqLine : (s.drawIfDecimal).irqLine = s.irqLine := by unfold State.drawIfDecimal; split <;> rfl
@[simp] theorem State.drawIfDecimal_inputs : (s.drawIfDecimal).inputs = s.inputs := by unfold State.drawIfDecimal; split <;> rfl
@[simp] theorem State.drawIfDecimal_sys : (s.drawIfDecimal).sys = s.sys := by unfold State.drawIfDecimal; split <;> rfl
@[simp] theorem State.drawIfDecimal_flag (f0 : Flag) : (s.drawIfDecimal).flag f0 = s.flag f0 := by simp only [State.flag, State.drawIfDecimal_p]
@[simp] theorem State.drawIfDecimal_wA : (s.drawIfDecimal).wA = s.wA := by simp only [State.wA, State.drawIfDecimal_flag]
@[simp] theorem State.drawIfDecimal_wX : (s.drawIfDecimal).wX = s.wX := by simp only [State.wX, State.drawIfDecimal_flag]
end drawIfDecimal

section compareFlags
variable (w : Width) (r m : Word)
@[simp] theorem State.compareFlags_c : (s.compareFlags w r m).c = s.c := by simp only [State.compareFlags, State.setFlag_c]
@[simp] theorem State.compareFlags_x : (s.compareFlags w r m).x = s.x := by simp only [State.compareFlags, State.setFlag_x]
@[simp] theorem State.compareFlags_y : (s.compareFlags w r m).y = s.y := by simp only [State.compareFlags, State.setFlag_y]
@[simp] theorem State.compareFlags_sp : (s.compareFlags w r m).sp = s.sp := by simp only [State.compareFlags, State.setFlag_sp]
@[simp] theorem State.compareFlags_d : (s.compareFlags w r m).d = s.d := by simp only [State.compareFlags, State.setFlag_d]
@[simp] theorem State.compareFlags_pc : (s.compareFlags w r m).pc = s.pc := by simp only [State.compareFlags, State.setFlag_pc]
@[simp] theorem State.compareFlags_dbr : (s.compareFlags w r m).dbr = s.dbr := by simp only [State.compareFlags, State.setFlag_dbr]
@[simp] theorem State.compareFlags_pbr : (s.compareFlags w r m).pbr = s.pbr := by simp only [State.compareFlags, State.setFlag_pbr]
@[simp] theorem State.compareFlags_e : (s.compareFlags w r m).e = s.e := by simp only [State.compareFlags, State.setFlag_e]
@[simp] theorem State.compareFlags_stopped : (s.compareFlags w r m).stopped = s.stopped := by simp only [State.compareFlags, State.setFlag_stopped]
@[simp] theorem State.compareFlags_waiting : (s.compareFlags w r m).waiting = s.waiting := by simp only [State.compareFlags, State.setFlag_waiting]
@[simp] theorem State.compareFlags_nmiPending : (s.compareFlags w r m).nmiPending = s.nmiPending := by simp only [State.compareFlags, State.setFlag_nmiPending]
@[simp] theorem State.compareFlags_irqLine : (s.compareFlags w r m).irqLine = s.irqLine := by simp only [State.compareFlags, State.setFlag_irqLine]
@[simp] theorem State.compareFlags_inputs : (s.compareFlags w r m).inputs = s.inputs := by simp only [State.compareFlags, State.setFlag_inputs]
@[simp] theorem State.compareFlags_free : (s.compareFlags w r m).free = s.free := by simp only [State.compareFlags, State.setFlag_free]
@[simp] theorem State.compareFlags_sys : (s.compareFlags w r m).sys = s.sys := by simp only [State.compareFlags, State.setFlag_sys]
end compareFlags

section pushFrame
variable (k : InterruptKind) (r : Word)
@[simp] theorem State.pushFrame_c : (s.pushFrame k r).c = s.c := by
  unfold State.pushFrame; dsimp only; split <;> simp only [State.push8_c, State.push16_c]
@[simp] theorem State.pushFrame_x : (s.pushFrame k r).x = s.x := by
  unfold State.pushFrame; dsimp only; split <;> simp only [State.push8_x, State.push16_x]
@[simp] theorem State.pushFrame_y : (s.pushFrame k r).y = s.y := by
  unfold State.pushFrame; dsimp only; split <;> simp only [State.push8_y, State.push16_y]
@[simp] theorem State.pushFrame_d : (s.pushFrame k r).d = s.d := by
  unfold State.pushFrame; dsimp only; split <;> simp only [State.push8_d, State.push16_d]
@[simp] theorem State.pushFrame_pc : (s.pushFrame k r).pc = s.pc := by
  unfold State.pushFrame; dsimp only; split <;> simp only [State.push8_pc, State.push16_pc]
@[simp] theorem State.pushFrame_dbr : (s.pushFrame k r).dbr = s.dbr := by
  unfold State.pushFrame; dsimp only; split <;> simp only [State.push8_dbr, State.push16_dbr]
@[simp] theorem State.pushFrame_pbr : (s.pushFrame k r).pbr = s.pbr := by
  unfold State.pushFrame; dsimp only; split <;> simp only [State.push8_pbr, State.push16_pbr]
@[simp] theorem State.pushFrame_p : (s.pushFrame k r).p = s.p := by
  unfold State.pushFrame; dsimp only; split <;> simp only [State.push8_p, State.push16_p]
@[simp] theorem State.pushFrame_e : (s.pushFrame k r).e = s.e := by
  unfold State.pushFrame; dsimp only; split <;> simp only [State.push8_e, State.push16_e]
@[simp] theorem State.pushFrame_stopped : (s.pushFrame k r).stopped = s.stopped := by
  unfold State.pushFrame; dsimp only; split <;> simp only [State.push8_stopped, State.push16_stopped]
@[simp] theorem State.pushFrame_waiting : (s.pushFrame k r).waiting = s.waiting := by
  unfold State.pushFrame; dsimp only; split <;> simp only [State.push8_waiting, State.push16_waiting]
@[simp] theorem State.pushFrame_nmiPending : (s.pushFrame k r).nmiPending = s.nmiPending := by
  unfold State.pushFrame; dsimp only; split <;> simp only [State.push8_nmiPending, State.push16_nmiPending]
@[simp] theorem State.pushFrame_irqLine : (s.pushFrame k r).irqLine = s.irqLine := by
  unfold State.pushFrame; dsimp only; split <;> simp only [State.push8_irqLine, State.push16_irqLine]
@[simp] theorem State.pushFrame_inputs : (s.pushFrame k r).inputs = s.inputs := by
  unfold State.pushFrame; dsimp only; split <;> simp only [State.push8_inputs, State.push16_inputs]
@[simp] theorem State.pushFrame_free : (s.pushFrame k r).free = s.free := by
  unfold State.pushFrame; dsimp only; split <;> simp only [State.push8_free, State.push16_free]
@[simp] theorem State.pushFrame_flag (f0 : Flag) : (s.pushFrame k r).flag f0 = s.flag f0 := by simp only [State.flag, State.pushFrame_p]
@[simp] theorem State.pushFrame_wA : (s.pushFrame k r).wA = s.wA := by simp only [State.wA, State.pushFrame_flag]
@[simp] theorem State.pushFrame_wX : (s.pushFrame k r).wX = s.wX := by simp only [State.wX, State.pushFrame_flag]
end pushFrame

section enterHandler
variable (v : Word)
@[simp] theorem State.enterHandler_c : (s.enterHandler v).c = s.c := by simp only [State.enterHandler, State.setPc_c, State.read16_c, State.setPbr_c, State.setFlag_c]
@[simp] theorem State.enterHandler_x : (s.enterHandler v).x = s.x := by simp only [State.enterHandler, State.setPc_x, State.read16_x, State.setPbr_x, State.setFlag_x]
@[simp] theorem State.enterHandler_y : (s.enterHandler v).y = s.y := by simp only [State.enterHandler, State.setPc_y, State.read16_y, State.setPbr_y, State.setFlag_y]
@[simp] theorem State.enterHandler_sp : (s.enterHandler v).sp = s.sp := by simp only [State.enterHandler, State.setPc_sp, State.read16_sp, State.setPbr_sp, State.setFlag_sp]
@[simp] theorem State.enterHandler_d : (s.enterHandler v).d = s.d := by simp only [State.enterHandler, State.setPc_d, State.read16_d, State.setPbr_d, State.setFlag_d]
@[simp] theorem State.enterHandler_dbr : (s.enterHandler v).dbr = s.dbr := by simp only [State.enterHandler, State.setPc_dbr, State.read16_dbr, State.setPbr_dbr, State.setFlag_dbr]
@[simp] theorem State.enterHandler_e : (s.enterHandler v).e = s.e := by simp only [State.enterHandler, State.setPc_e, State.read16_e, State.setPbr_e, State.setFlag_e]
@[simp] theorem State.enterHandler_stopped : (s.enterHandler v).stopped = s.stopped := by simp only [State.enterHandler, State.setPc_stopped, State.read16_stopped, State.setPbr_stopped, State.setFlag_stopped]
@[simp] theorem State.enterHandler_waiting : (s.enterHandler v).waiting = s.waiting := by simp only [State.enterHandler, State.setPc_waiting, State.read16_waiting, State.setPbr_waiting, State.setFlag_waiting]
@[simp] theorem State.enterHandler_nmiPending : (s.enterHandler v).nmiPending = s.nmiPending := by simp only [State.enterHandler, State.setPc_nmiPending, State.read16_nmiPending, State.setPbr_nmiPending, State.setFlag_nmiPending]
@[simp] theorem State.enterHandler_irqLine : (s.enterHandler v).irqLine = s.irqLine := by simp only [State.enterHandler, State.setPc_irqLine, State.read16_irqLine, State.setPbr_irqLine, State.setFlag_irqLine]
@[simp] theorem State.enterHandler_inputs : (s.enterHandler v).inputs = s.inputs := by simp only [State.enterHandler, State.setPc_inputs, State.read16_inputs, State.setPbr_inputs, State.setFlag_inputs]
@[simp] theorem State.enterHandler_free : (s.enterHandler v).free = s.free := by simp only [State.enterHandler, State.setPc_free, State.read16_free, State.setPbr_free, State.setFlag_free]
end enterHandler

section interrupt
variable (k : InterruptKind) (r : Word)
@[simp] theorem State.interrupt_c : (s.interrupt k r).c = s.c := by simp only [State.interrupt, State.enterHandler_c, State.pushFrame_c]
@[simp] theorem State.interrupt_x : (s.interrupt k r).x = s.x := by simp only [State.interrupt, State.enterHandler_x, State.pushFrame_x]
@[simp] theorem State.interrupt_y : (s.interrupt k r).y = s.y := by simp only [State.interrupt, State.enterHandler_y, State.pushFrame_y]
@[simp] theorem State.interrupt_d : (s.interrupt k r).d = s.d := by simp only [State.interrupt, State.enterHandler_d, State.pushFrame_d]
@[simp] theorem State.interrupt_dbr : (s.interrupt k r).dbr = s.dbr := by simp only [State.interrupt, State.enterHandler_dbr, State.pushFrame_dbr]
@[simp] theorem State.interrupt_e : (s.interrupt k r).e = s.e := by simp only [State.interrupt, State.enterHandler_e, State.pushFrame_e]
@[simp] theorem State.interrupt_stopped : (s.interrupt k r).stopped = s.stopped := by simp only [State.interrupt, State.enterHandler_stopped, State.pushFrame_stopped]
@[simp] theorem State.interrupt_waiting : (s.interrupt k r).waiting = s.waiting := by simp only [State.interrupt, State.enterHandler_waiting, State.pushFrame_waiting]
@[simp] theorem State.interrupt_nmiPending : (s.interrupt k r).nmiPending = s.nmiPending := by simp only [State.interrupt, State.enterHandler_nmiPending, State.pushFrame_nmiPending]
@[simp] theorem State.interrupt_irqLine : (s.interrupt k r).irqLine = s.irqLine := by simp only [State.interrupt, State.enterHandler_irqLine, State.pushFrame_irqLine]
@[simp] theorem State.interrupt_inputs : (s.interrupt k r).inputs = s.inputs := by simp only [State.interrupt, State.enterHandler_inputs, State.pushFrame_inputs]
@[simp] theorem State.interrupt_free : (s.interrupt k r).free = s.free := by simp only [State.interrupt, State.enterHandler_free, State.pushFrame_free]
end interrupt

section takeNmi
@[simp] theorem State.takeNmi_c : (s.takeNmi).c = s.c := by simp only [State.takeNmi, State.interrupt_c, State.setNmiPending_c, State.setWaiting_c]
@[simp] theorem State.takeNmi_x : (s.takeNmi).x = s.x := by simp only [State.takeNmi, State.interrupt_x, State.setNmiPending_x, State.setWaiting_x]
@[simp] theorem State.takeNmi_y : (s.takeNmi).y = s.y := by simp only [State.takeNmi, State.interrupt_y, State.setNmiPending_y, State.setWaiting_y]
@[simp] theorem State.takeNmi_d : (s.takeNmi).d = s.d := by simp only [State.takeNmi, State.interrupt_d, State.setNmiPending_d, State.setWaiting_d]
@[simp] theorem State.takeNmi_dbr : (s.takeNmi).dbr = s.dbr := by simp only [State.takeNmi, State.interrupt_dbr, State.setNmiPending_dbr, State.setWaiting_dbr]
@[simp] theorem State.takeNmi_e : (s.takeNmi).e = s.e := by simp only [State.takeNmi, State.interrupt_e, State.setNmiPending_e, State.setWaiting_e]
@[simp] theorem State.takeNmi_stopped : (s.takeNmi).stopped = s.stopped := by simp only [State.takeNmi, State.interrupt_stopped, State.setNmiPending_stopped, State.setWaiting_stopped]
@[simp] theorem State.takeNmi_irqLine : (s.takeNmi).irqLine = s.irqLine := by simp only [State.takeNmi, State.interrupt_irqLine, State.setNmiPending_irqLine, State.setWaiting_irqLine]
@[simp] theorem State.takeNmi_inputs : (s.takeNmi).inputs = s.inputs := by simp only [State.takeNmi, State.interrupt_inputs, State.setNmiPending_inputs, State.setWaiting_inputs]
@[simp] theorem State.takeNmi_free : (s.takeNmi).free = s.free := by simp only [State.takeNmi, State.interrupt_free, State.setNmiPending_free, State.setWaiting_free]
end takeNmi

section takeIrq
@[simp] theorem State.takeIrq_c : (s.takeIrq).c = s.c := by simp only [State.takeIrq, State.interrupt_c, State.setWaiting_c]
@[simp] theorem State.takeIrq_x : (s.takeIrq).x = s.x := by simp only [State.takeIrq, State.interrupt_x, State.setWaiting_x]
@[simp] theorem State.takeIrq_y : (s.takeIrq).y = s.y := by simp only [State.takeIrq, State.interrupt_y, State.setWaiting_y]
@[simp] theorem State.takeIrq_d : (s.takeIrq).d = s.d := by simp only [State.takeIrq, State.interrupt_d, State.setWaiting_d]
@[simp] theorem State.takeIrq_dbr : (s.takeIrq).dbr = s.dbr := by simp only [State.takeIrq, State.interrupt_dbr, State.setWaiting_dbr]
@[simp] theorem State.takeIrq_e : (s.takeIrq).e = s.e := by simp only [State.takeIrq, State.interrupt_e, State.setWaiting_e]
@[simp] theorem State.takeIrq_stopped : (s.takeIrq).stopped = s.stopped := by simp only [State.takeIrq, State.interrupt_stopped, State.setWaiting_stopped]
@[simp] theorem State.takeIrq_nmiPending : (s.takeIrq).nmiPending = s.nmiPending := by simp only [State.takeIrq, State.interrupt_nmiPending, State.setWaiting_nmiPending]
@[simp] theorem State.takeIrq_irqLine : (s.takeIrq).irqLine = s.irqLine := by simp only [State.takeIrq, State.interrupt_irqLine, State.setWaiting_irqLine]
@[simp] theorem State.takeIrq_inputs : (s.takeIrq).inputs = s.inputs := by simp only [State.takeIrq, State.interrupt_inputs, State.setWaiting_inputs]
@[simp] theorem State.takeIrq_free : (s.takeIrq).free = s.free := by simp only [State.takeIrq, State.interrupt_free, State.setWaiting_free]
end takeIrq

section sample
@[simp] theorem State.sample_c : (s.sample).c = s.c := by unfold State.sample; split <;> rfl
@[simp] theorem State.sample_x : (s.sample).x = s.x := by unfold State.sample; split <;> rfl
@[simp] theorem State.sample_y : (s.sample).y = s.y := by unfold State.sample; split <;> rfl
@[simp] theorem State.sample_sp : (s.sample).sp = s.sp := by unfold State.sample; split <;> rfl
@[simp] theorem State.sample_d : (s.sample).d = s.d := by unfold State.sample; split <;> rfl
@[simp] theorem State.sample_pc : (s.sample).pc = s.pc := by unfold State.sample; split <;> rfl
@[simp] theorem State.sample_dbr : (s.sample).dbr = s.dbr := by unfold State.sample; split <;> rfl
@[simp] theorem State.sample_pbr : (s.sample).pbr = s.pbr := by unfold State.sample; split <;> rfl
@[simp] theorem State.sample_p : (s.sample).p = s.p := by unfold State.sample; split <;> rfl
@[simp] theorem State.sample_e : (s.sample).e = s.e := by unfold State.sample; split <;> rfl
@[simp] theorem State.sample_stopped : (s.sample).stopped = s.stopped := by unfold State.sample; split <;> rfl
@[simp] theorem State.sample_waiting : (s.sample).waiting = s.waiting := by unfold State.sample; split <;> rfl
@[simp] theorem State.sample_free : (s.sample).free = s.free := by unfold State.sample; split <;> rfl
@[simp] theorem State.sample_sys : (s.sample).sys = s.sys := by unfold State.sample; split <;> rfl
@[simp] theorem State.sample_flag (f0 : Flag) : (s.sample).flag f0 = s.flag f0 := by simp only [State.flag, State.sample_p]
@[simp] theorem State.sample_wA : (s.sample).wA = s.wA := by simp only [State.wA, State.sample_flag]
@[simp] theorem State.sample_wX : (s.sample).wX = s.wX := by simp only [State.wX, State.sample_flag]
end sample

section idle
@[simp] theorem State.idle_c : (s.idle).c = s.c := by unfold State.idle; split <;> rfl
@[simp] theorem State.idle_x : (s.idle).x = s.x := by unfold State.idle; split <;> rfl
@[simp] theorem State.idle_y : (s.idle).y = s.y := by unfold State.idle; split <;> rfl
@[simp] theorem State.idle_sp : (s.idle).sp = s.sp := by unfold State.idle; split <;> rfl
@[simp] theorem State.idle_d : (s.idle).d = s.d := by unfold State.idle; split <;> rfl
@[simp] theorem State.idle_pc : (s.idle).pc = s.pc := by unfold State.idle; split <;> rfl
@[simp] theorem State.idle_dbr : (s.idle).dbr = s.dbr := by unfold State.idle; split <;> rfl
@[simp] theorem State.idle_pbr : (s.idle).pbr = s.pbr := by unfold State.idle; split <;> rfl
@[simp] theorem State.idle_p : (s.idle).p = s.p := by unfold State.idle; split <;> rfl
@[simp] theorem State.idle_e : (s.idle).e = s.e := by unfold State.idle; split <;> rfl
@[simp] theorem State.idle_stopped : (s.idle).stopped = s.stopped := by unfold State.idle; split <;> rfl
@[simp] theorem State.idle_nmiPending : (s.idle).nmiPending = s.nmiPending := by unfold State.idle; split <;> rfl
@[simp] theorem State.idle_irqLine : (s.idle).irqLine = s.irqLine := by unfold State.idle; split <;> rfl
@[simp] theorem State.idle_inputs : (s.idle).inputs = s.inputs := by unfold State.idle; split <;> rfl
@[simp] theorem State.idle_free : (s.idle).free = s.free := by unfold State.idle; split <;> rfl
@[simp] theorem State.idle_sys : (s.idle).sys = s.sys := by unfold State.idle; split <;> rfl
@[simp] theorem State.idle_flag (f0 : Flag) : (s.idle).flag f0 = s.flag f0 := by simp only [State.flag, State.idle_p]
@[simp] theorem State.idle_wA : (s.idle).wA = s.wA := by simp only [State.wA, State.idle_flag]
@[simp] theorem State.idle_wX : (s.idle).wX = s.wX := by simp only [State.wX, State.idle_flag]
end idle

section readProg
variable (o : Word) (n : Nat)
@[simp] theorem State.readProg_c : ((s.readProg o n).2).c = s.c := by
  induction n generalizing s o with
  | zero => rfl
  | succ n ih => simp only [State.readProg, ih, State.read8_c]
@[simp] theorem State.readProg_x : ((s.readProg o n).2).x = s.x := by
  induction n generalizing s o with
  | zero => rfl
  | succ n ih => simp only [State.readProg, ih, State.read8_x]
@[simp] theorem State.readProg_y : ((s.readProg o n).2).y = s.y := by
  induction n generalizing s o with
  | zero => rfl
  | succ n ih => simp only [State.readProg, ih, State.read8_y]
@[simp] theorem State.readProg_sp : ((s.readProg o n).2).sp = s.sp := by
  induction n generalizing s o with
  | zero => rfl
  | succ n ih => simp only [State.readProg, ih, State.read8_sp]
@[simp] theorem State.readProg_d : ((s.readProg o n).2).d = s.d := by
  induction n generalizing s o with
  | zero => rfl
  | succ n ih => simp only [State.readProg, ih, State.read8_d]
@[simp] theorem State.readProg_pc : ((s.readProg o n).2).pc = s.pc := by
  induction n generalizing s o with
  | zero => rfl
  | succ n ih => simp only [State.readProg, ih, State.read8_pc]
@[simp] theorem State.readProg_dbr : ((s.readProg o n).2).dbr = s.dbr := by
  induction n generalizing s o with
  | zero => rfl
  | succ n ih => simp only [State.readProg, ih, State.read8_dbr]
@[simp] theorem State.readProg_pbr : ((s.readProg o n).2).pbr = s.pbr := by
  induction n generalizing s o with
  | zero => rfl
  | succ n ih => simp only [State.readProg, ih, State.read8_pbr]
@[simp] theorem State.readProg_p : ((s.readProg o n).2).p = s.p := by
  induction n generalizing s o with
  | zero => rfl
  | succ n ih => simp only [State.readProg, ih, State.read8_p]
@[simp] theorem State.readProg_e : ((s.readProg o n).2).e = s.e := by
  induction n generalizing s o with
  | zero => rfl
  | succ n ih => simp only [State.readProg, ih, State.read8_e]
@[simp] theorem State.readProg_stopped : ((s.readProg o n).2).stopped = s.stopped := by
  induction n generalizing s o with
  | zero => rfl
  | succ n ih => simp only [State.readProg, ih, State.read8_stopped]
@[simp] theorem State.readProg_waiting : ((s.readProg o n).2).waiting = s.waiting := by
  induction n generalizing s o with
  | zero => rfl
  | succ n ih => simp only [State.readProg, ih, State.read8_waiting]
@[simp] theorem State.readProg_nmiPending : ((s.readProg o n).2).nmiPending = s.nmiPending := by
  induction n generalizing s o with
  | zero => rfl
  | succ n ih => simp only [State.readProg, ih, State.read8_nmiPending]
@[simp] theorem State.readProg_irqLine : ((s.readProg o n).2).irqLine = s.irqLine := by
  induction n generalizing s o with
  | zero => rfl
  | succ n ih => simp only [State.readProg, ih, State.read8_irqLine]
@[simp] theorem State.readProg_inputs : ((s.readProg o n).2).inputs = s.inputs := by
  induction n generalizing s o with
  | zero => rfl
  | succ n ih => simp only [State.readProg, ih, State.read8_inputs]
@[simp] theorem State.readProg_free : ((s.readProg o n).2).free = s.free := by
  induction n generalizing s o with
  | zero => rfl
  | succ n ih => simp only [State.readProg, ih, State.read8_free]
@[simp] theorem State.readProg_flag (f0 : Flag) : ((s.readProg o n).2).flag f0 = s.flag f0 := by simp only [State.flag, State.readProg_p]
@[simp] theorem State.readProg_wA : ((s.readProg o n).2).wA = s.wA := by simp only [State.wA, State.readProg_flag]
@[simp] theorem State.readProg_wX : ((s.readProg o n).2).wX = s.wX := by simp only [State.wX, State.readProg_flag]
end readProg

section fetchBytes
@[simp] theorem State.fetchBytes_c : (s.fetchBytes.2).c = s.c := by simp only [State.fetchBytes, State.readProg_c, State.read8_c]
@[simp] theorem State.fetchBytes_x : (s.fetchBytes.2).x = s.x := by simp only [State.fetchBytes, State.readProg_x, State.read8_x]
@[simp] theorem State.fetchBytes_y : (s.fetchBytes.2).y = s.y := by simp only [State.fetchBytes, State.readProg_y, State.read8_y]
@[simp] theorem State.fetchBytes_sp : (s.fetchBytes.2).sp = s.sp := by simp only [State.fetchBytes, State.readProg_sp, State.read8_sp]
@[simp] theorem State.fetchBytes_d : (s.fetchBytes.2).d = s.d := by simp only [State.fetchBytes, State.readProg_d, State.read8_d]
@[simp] theorem State.fetchBytes_pc : (s.fetchBytes.2).pc = s.pc := by simp only [State.fetchBytes, State.readProg_pc, State.read8_pc]
@[simp] theorem State.fetchBytes_dbr : (s.fetchBytes.2).dbr = s.dbr := by simp only [State.fetchBytes, State.readProg_dbr, State.read8_dbr]
@[simp] theorem State.fetchBytes_pbr : (s.fetchBytes.2).pbr = s.pbr := by simp only [State.fetchBytes, State.readProg_pbr, State.read8_pbr]
@[simp] theorem State.fetchBytes_p : (s.fetchBytes.2).p = s.p := by simp only [State.fetchBytes, State.readProg_p, State.read8_p]
@[simp] theorem State.fetchBytes_e : (s.fetchBytes.2).e = s.e := by simp only [State.fetchBytes, State.readProg_e, State.read8_e]
@[simp] theorem State.fetchBytes_stopped : (s.fetchBytes.2).stopped = s.stopped := by simp only [State.fetchBytes, State.readProg_stopped, State.read8_stopped]
@[simp] theorem State.fetchBytes_waiting : (s.fetchBytes.2).waiting = s.waiting := by simp only [State.fetchBytes, State.readProg_waiting, State.read8_waiting]
@[simp] theorem State.fetchBytes_nmiPending : (s.fetchBytes.2).nmiPending = s.nmiPending := by simp only [State.fetchBytes, State.readProg_nmiPending, State.read8_nmiPending]
@[simp] theorem State.fetchBytes_irqLine : (s.fetchBytes.2).irqLine = s.irqLine := by simp only [State.fetchBytes, State.readProg_irqLine, State.read8_irqLine]
@[simp] theorem State.fetchBytes_inputs : (s.fetchBytes.2).inputs = s.inputs := by simp only [State.fetchBytes, State.readProg_inputs, State.read8_inputs]
@[simp] theorem State.fetchBytes_free : (s.fetchBytes.2).free = s.free := by simp only [State.fetchBytes, State.readProg_free, State.read8_free]
@[simp] theorem State.fetchBytes_flag (f0 : Flag) : (s.fetchBytes.2).flag f0 = s.flag f0 := by simp only [State.flag, State.fetchBytes_p]
@[simp] theorem State.fetchBytes_wA : (s.fetchBytes.2).wA = s.wA := by simp only [State.wA, State.fetchBytes_flag]
@[simp] theorem State.fetchBytes_wX : (s.fetchBytes.2).wX = s.wX := by simp only [State.wX, State.fetchBytes_flag]
end fetchBytes

section fetch
@[simp] theorem State.fetch_c : (s.fetch.2).c = s.c := by simp only [State.fetch, State.fetchBytes_c, State.setSys_c]
@[simp] theorem State.fetch_x : (s.fetch.2).x = s.x := by simp only [State.fetch, State.fetchBytes_x, State.setSys_x]
@[simp] theorem State.fetch_y : (s.fetch.2).y = s.y := by simp only [State.fetch, State.fetchBytes_y, State.setSys_y]
@[simp] theorem State.fetch_sp : (s.fetch.2).sp = s.sp := by simp only [State.fetch, State.fetchBytes_sp, State.setSys_sp]
@[simp] theorem State.fetch_d : (s.fetch.2).d = s.d := by simp only [State.fetch, State.fetchBytes_d, State.setSys_d]
@[simp] theorem State.fetch_pc : (s.fetch.2).pc = s.pc := by simp only [State.fetch, State.fetchBytes_pc, State.setSys_pc]
@[simp] theorem State.fetch_dbr : (s.fetch.2).dbr = s.dbr := by simp only [State.fetch, State.fetchBytes_dbr, State.setSys_dbr]
@[simp] theorem State.fetch_pbr : (s.fetch.2).pbr = s.pbr := by simp only [State.fetch, State.fetchBytes_pbr, State.setSys_pbr]
@[simp] theorem State.fetch_p : (s.fetch.2).p = s.p := by simp only [State.fetch, State.fetchBytes_p, State.setSys_p]
@[simp] theorem State.fetch_e : (s.fetch.2).e = s.e := by simp only [State.fetch, State.fetchBytes_e, State.setSys_e]
@[simp] theorem State.fetch_stopped : (s.fetch.2).stopped = s.stopped := by simp only [State.fetch, State.fetchBytes_stopped, State.setSys_stopped]
@[simp] theorem State.fetch_waiting : (s.fetch.2).waiting = s.waiting := by simp only [State.fetch, State.fetchBytes_waiting, State.setSys_waiting]
@[simp] theorem State.fetch_nmiPending : (s.fetch.2).nmiPending = s.nmiPending := by simp only [State.fetch, State.fetchBytes_nmiPending, State.setSys_nmiPending]
@[simp] theorem State.fetch_irqLine : (s.fetch.2).irqLine = s.irqLine := by simp only [State.fetch, State.fetchBytes_irqLine, State.setSys_irqLine]
@[simp] theorem State.fetch_inputs : (s.fetch.2).inputs = s.inputs := by simp only [State.fetch, State.fetchBytes_inputs, State.setSys_inputs]
@[simp] theorem State.fetch_free : (s.fetch.2).free = s.free := by simp only [State.fetch, State.fetchBytes_free, State.setSys_free]
@[simp] theorem State.fetch_flag (f0 : Flag) : (s.fetch.2).flag f0 = s.flag f0 := by simp only [State.flag, State.fetch_p]
@[simp] theorem State.fetch_wA : (s.fetch.2).wA = s.wA := by simp only [State.wA, State.fetch_flag]
@[simp] theorem State.fetch_wX : (s.fetch.2).wX = s.wX := by simp only [State.wX, State.fetch_flag]
end fetch

end Sys2Proof.Machine
end

