-- ==== Sys2Proof/Laws/Memory.lean ====
section
/-! SUPPORT. Lists of bytes: read after write, other keys, the canonical form; and what each access does to RAM, ROM and the
platform registers. -/

namespace Sys2Proof.Machine

/-! ### Lists of bytes -/

variable (u : Nat → Byte)

theorem Memory.get_put (m : Memory) (k j : Nat) (v : Byte) :
    (Memory.put k v m).get u j = if j = k then v else m.get u j := by
  induction m with
  | nil => simp only [Memory.put, Memory.get]; split <;> split <;> simp_all
  | cons c rest ih =>
    simp only [Memory.put]
    split
    · simp only [Memory.get]; by_cases h : j = k
      · simp [h]
      · simp [h, Ne.symm h]
    · split
      · simp only [Memory.get]; by_cases h : j = k
        · simp [h]
        · have : c.1 ≠ j := by omega
          simp [h, Ne.symm h, this]
      · simp only [Memory.get, ih]
        by_cases h : j = k
        · have : c.1 ≠ j := by omega
          simp [h, h ▸ this]
        · simp [h]

theorem Memory.get_remove (m : Memory) (k j : Nat) :
    Memory.get u (m.filter (fun c => decide (c.1 ≠ k))) j = if j = k then u k else m.get u j := by
  induction m with
  | nil => simp only [List.filter_nil, Memory.get]; split <;> simp_all
  | cons c rest ih =>
    by_cases hc : c.1 = k
    · simp only [hc, List.filter_cons, ne_eq, not_true_eq_false, decide_false, Bool.false_eq_true, ↓reduceIte, Memory.get] at ih ⊢
      rw [ih]; by_cases h : j = k
      · simp [h]
      · simp [h, Ne.symm h]
    · simp only [List.filter_cons, ne_eq, hc, not_false_eq_true, decide_true, ↓reduceIte, Memory.get] at ih ⊢
      rw [ih]; by_cases h : j = k
      · simp [h, hc]
      · simp [h]

/-- Reading after a write: the written key gives the value, every other key what it gave. -/
theorem Memory.get_set (m : Memory) (k j : Nat) (v : Byte) :
    (m.set u k v).get u j = if j = k then v else m.get u j := by
  unfold Memory.set
  split
  · rename_i h; rw [Memory.get_remove, h]
  · exact Memory.get_put u m k j v

theorem Memory.mem_put {m : Memory} {k : Nat} {v : Byte} {c : Host.Cell} (h : c ∈ Memory.put k v m) :
    c = (k, v) ∨ c ∈ m := by
  induction m with
  | nil => simpa [Memory.put] using h
  | cons d rest ih =>
    simp only [Memory.put] at h
    split at h
    · simpa using h
    · split at h
      · rcases List.mem_cons.1 h with h | h
        · exact .inl h
        · exact .inr (List.mem_cons_of_mem _ h)
      · rcases List.mem_cons.1 h with h | h
        · exact .inr (by simp [h])
        · rcases ih h with h | h
          · exact .inl h
          · exact .inr (List.mem_cons_of_mem _ h)

theorem Memory.put_sorted {m : Memory} (k : Nat) (v : Byte) (h : m.Pairwise (fun a b => a.1 < b.1)) :
    (Memory.put k v m).Pairwise (fun a b => a.1 < b.1) := by
  induction m with
  | nil => simp [Memory.put]
  | cons c rest ih =>
    rw [List.pairwise_cons] at h
    simp only [Memory.put]
    split
    · rename_i hk
      refine List.pairwise_cons.2 ⟨?_, List.pairwise_cons.2 h⟩
      intro d hd
      rcases List.mem_cons.1 hd with hd | hd
      · exact hd ▸ hk
      · exact hk.trans (h.1 d hd)
    · split
      · rename_i hk
        exact List.pairwise_cons.2 ⟨fun d hd => hk ▸ h.1 d hd, h.2⟩
      · refine List.pairwise_cons.2 ⟨fun d hd => ?_, ih h.2⟩
        rcases Memory.mem_put hd with hd | hd
        · subst hd; show c.1 < k; omega
        · exact h.1 d hd

/-- Every write keeps the canonical form. -/
theorem Memory.set_wf {m : Memory} {k : Nat} {v : Byte} (hk : k < 2 ^ 24) (h : m.wf u) : (m.set u k v).wf u := by
  unfold Memory.set
  split
  · exact ⟨h.1.filter _, fun c hc => h.2 c (List.mem_of_mem_filter hc)⟩
  · rename_i hv
    refine ⟨Memory.put_sorted k v h.1, fun c hc => ?_⟩
    rcases Memory.mem_put hc with hc | hc
    · subst hc; exact ⟨hv, hk⟩
    · exact h.2 c hc

theorem Memory.nil_wf : Memory.wf u [] := ⟨List.Pairwise.nil, fun _ h => by cases h⟩

/-! ### The address map -/

variable (y : System) (a b : Addr) (v : Byte)

/-- Where an address leads, case by case: a RAM key in `$7E-$7F`, or in the first 8 KB of `$7E` with the same offset; a ROM key that is
the address; a register that is the offset. -/
theorem route_cases (map : RomMap) :
    (∃ k, route map a = .ram k ∧ k < 2 ^ 24 ∧ k % 65536 = a.off.toNat) ∨
    (∃ k, route map a = .rom k ∧ k < 2 ^ 24 ∧ k % 65536 = a.off.toNat) ∨
    route map a = .io a.off.toNat ∨ route map a = .unmapped := by
  have ha := a.isLt
  have ho : a.off.toNat = a.toNat % 65536 := by simp [Addr.off, BitVec.toNat_setWidth]
  simp only [route]
  split_ifs
  · exact .inl ⟨_, rfl, by omega, by omega⟩
  · exact .inl ⟨_, rfl, by omega, by omega⟩
  · exact .inr (.inl ⟨_, rfl, by omega, by omega⟩)
  · exact .inr (.inr (.inl rfl))
  · exact .inr (.inr (.inr rfl))
  · exact .inr (.inl ⟨_, rfl, by omega, by omega⟩)
  · exact .inr (.inr (.inr rfl))

theorem route_ram_lt {map : RomMap} {k : Nat} (h : route map a = .ram k) : k < 2 ^ 24 := by
  rcases route_cases a map with ⟨j, hj, hlt, -⟩ | ⟨j, hj, -, -⟩ | hj | hj <;> rw [hj] at h <;> cases h
  exact hlt

theorem route_rom_lt {map : RomMap} {k : Nat} (h : route map a = .rom k) : k < 2 ^ 24 := by
  rcases route_cases a map with ⟨j, hj, -, -⟩ | ⟨j, hj, hlt, -⟩ | hj | hj <;> rw [hj] at h <;> cases h
  exact hlt

theorem route_io_lt {map : RomMap} {r : Nat} (h : route map a = .io r) : r < 2 ^ 24 := by
  have ho := a.off.isLt
  rcases route_cases a map with ⟨j, hj, -, -⟩ | ⟨j, hj, -, -⟩ | hj | hj <;> rw [hj] at h <;> cases h
  omega

/-! ### What each access leaves alone -/

@[simp] theorem System.afterRead_mem : (y.afterRead a).mem = y.mem := by unfold System.afterRead; split <;> rfl
@[simp] theorem System.afterRead_io : (y.afterRead a).io = y.io := by unfold System.afterRead; split <;> rfl
@[simp] theorem System.afterRead_romMap : (y.afterRead a).romMap = y.romMap := by unfold System.afterRead; split <;> rfl
@[simp] theorem System.afterRead_rddiv : (y.afterRead a).rddiv = y.rddiv := by unfold System.afterRead; split <;> rfl
@[simp] theorem System.afterRead_rdmpy : (y.afterRead a).rdmpy = y.rdmpy := by unfold System.afterRead; split <;> rfl
@[simp] theorem System.afterRead_rddivWait : (y.afterRead a).rddivWait = y.rddivWait := by unfold System.afterRead; split <;> rfl
@[simp] theorem System.afterRead_rdmpyWait : (y.afterRead a).rdmpyWait = y.rdmpyWait := by unfold System.afterRead; split <;> rfl

/-- A read changes the history of bus events and nothing else (R75, R77). -/
theorem System.afterRead_eq : y.afterRead a = { y with busLog := (y.afterRead a).busLog } := by
  unfold System.afterRead; split <;> rfl

@[simp] theorem System.afterRead_cell : (y.afterRead a).cell b = y.cell b := by simp [System.cell]
@[simp] theorem System.afterRead_peek : (y.afterRead a).peek b = y.peek b := by simp [System.peek]

@[simp] theorem mathWrite_mem (r : Nat) : (mathWrite r v y).mem = y.mem := by unfold mathWrite; split <;> [rfl; split <;> rfl]
@[simp] theorem mathWrite_io (r : Nat) : (mathWrite r v y).io = y.io := by unfold mathWrite; split <;> [rfl; split <;> rfl]
@[simp] theorem mathWrite_busLog (r : Nat) : (mathWrite r v y).busLog = y.busLog := by
  unfold mathWrite; split <;> [rfl; split <;> rfl]
@[simp] theorem mathWrite_romMap (r : Nat) : (mathWrite r v y).romMap = y.romMap := by
  unfold mathWrite; split <;> [rfl; split <;> rfl]

@[simp] theorem System.ioSet_mem (r : Nat) : (y.ioSet r v).mem = y.mem := rfl
@[simp] theorem System.ioSet_romMap (r : Nat) : (y.ioSet r v).romMap = y.romMap := rfl
@[simp] theorem System.ioSet_busLog (r : Nat) : (y.ioSet r v).busLog = y.busLog := rfl
@[simp] theorem System.ioSet_io (r : Nat) : (y.ioSet r v).io = y.io.set ioUnlisted r v := rfl

/-- A machine-made register change reads back, and touches no other register. -/
theorem System.ioSet_ioGet (r r' : Nat) : (y.ioSet r v).ioGet r' = if r' = r then v else y.ioGet r' := by
  simp only [System.ioGet, System.ioSet_io, Memory.get_set]

@[simp] theorem System.store8_romMap : (y.store8 a v).romMap = y.romMap := by unfold System.store8; split <;> simp

/-- What a store does to RAM and ROM: the RAM byte of its address, and nothing else (R62, R77, R78). -/
theorem System.store8_mem : (y.store8 a v).mem =
    match route y.romMap a with
    | .ram k => y.mem.set Memory.unlisted k v
    | .rom _ => y.mem
    | .io _ => y.mem
    | .unmapped => y.mem := by
  unfold System.store8; split <;> simp_all

theorem System.store8_cell : (y.store8 a v).cell b = y.cell b := by simp [System.cell]

/-- Looking at memory after a store to RAM: the addresses that share the stored byte show the value, the others what they did. -/
theorem System.store8_peek_ram {k : Nat} (h : route y.romMap a = .ram k) :
    (y.store8 a v).peek b = if y.cell b = some k then some v else y.peek b := by
  simp only [System.peek, System.store8_cell, System.store8_mem, h]
  cases y.cell b with
  | none => simp
  | some j => simp only [Option.map_some, Memory.get_set, Option.some.injEq]; split <;> rfl

/-- Looking at memory after a store that went elsewhere: nothing changed. -/
theorem System.store8_peek_other (h : ∀ k, route y.romMap a ≠ .ram k) : (y.store8 a v).peek b = y.peek b := by
  simp only [System.peek, System.store8_cell, System.store8_mem]
  split
  · rename_i k hk; exact absurd hk (h k)
  all_goals rfl

/-- Looking at memory after any store: only bytes that share the stored address's cell can have changed. -/
theorem System.store8_peek_ne (h : y.cell b = none ∨ y.cell b ≠ y.cell a) : (y.store8 a v).peek b = y.peek b := by
  cases ha : route y.romMap a with
  | ram k =>
    have hc : y.cell a = some k := by simp [System.cell, ha]
    rw [System.store8_peek_ram y a b v ha, if_neg]
    rw [hc] at h; rcases h with h | h
    · simp [h]
    · exact h
  | rom k => exact System.store8_peek_other y a b v (by simp [ha])
  | io r => exact System.store8_peek_other y a b v (by simp [ha])
  | unmapped => exact System.store8_peek_other y a b v (by simp [ha])

/-- An access that writes memory or registers keeps both canonical forms. -/
theorem System.store8_wf (hm : y.mem.wf Memory.unlisted) (hi : y.io.wf ioUnlisted) :
    (y.store8 a v).mem.wf Memory.unlisted ∧ (y.store8 a v).io.wf ioUnlisted := by
  unfold System.store8
  split
  · rename_i k h; exact ⟨Memory.set_wf _ (route_ram_lt a h) hm, hi⟩
  · exact ⟨hm, hi⟩
  · rename_i r h
    simp only [mathWrite_mem, mathWrite_io]
    exact ⟨hm, Memory.set_wf _ (route_io_lt a h) hi⟩
  · exact ⟨hm, hi⟩

theorem System.ioSet_wf {r : Nat} (hr : r < 2 ^ 24) (hi : y.io.wf ioUnlisted) : (y.ioSet r v).io.wf ioUnlisted :=
  Memory.set_wf _ hr hi

/-! ### The DMA engine -/

variable (ch : DmaChannel)

@[simp] theorem DmaChannel.moveByte_romMap (i : Nat) : (ch.moveByte i y).romMap = y.romMap := by simp [DmaChannel.moveByte]

@[simp] theorem DmaChannel.moveBytes_romMap (n : Nat) : (ch.moveBytes n y).romMap = y.romMap := by
  induction n with
  | zero => rfl
  | succ n ih => simp [DmaChannel.moveBytes, ih]

theorem DmaChannel.moveBytes_wf (n : Nat) (hm : y.mem.wf Memory.unlisted) (hi : y.io.wf ioUnlisted) :
    (ch.moveBytes n y).mem.wf Memory.unlisted ∧ (ch.moveBytes n y).io.wf ioUnlisted := by
  induction n with
  | zero => exact ⟨hm, hi⟩
  | succ n ih =>
    simp only [DmaChannel.moveBytes, DmaChannel.moveByte]
    exact System.store8_wf _ _ _ (by simpa using ih.1) (by simpa using ih.2)

@[simp] theorem System.runChannel_romMap (n : Nat) : (y.runChannel n).romMap = y.romMap := by simp [System.runChannel]

theorem System.runChannel_wf {n : Nat} (hn : n < 8) (hm : y.mem.wf Memory.unlisted) (hi : y.io.wf ioUnlisted) :
    (y.runChannel n).mem.wf Memory.unlisted ∧ (y.runChannel n).io.wf ioUnlisted := by
  have h := DmaChannel.moveBytes_wf y (y.dmaChannel n) (y.dmaChannel n).count hm hi
  refine ⟨h.1, ?_⟩
  unfold System.runChannel
  exact System.ioSet_wf _ _ (by omega) (System.ioSet_wf _ _ (by omega) (System.ioSet_wf _ _ (by omega)
    (System.ioSet_wf _ _ (by omega) h.2)))

@[simp] theorem System.runChannels_romMap (n : Nat) : (y.runChannels v n).romMap = y.romMap := by
  induction n with
  | zero => rfl
  | succ n ih => simp only [System.runChannels]; split <;> simp [ih]

theorem System.runChannels_wf {n : Nat} (hn : n ≤ 8) (hm : y.mem.wf Memory.unlisted) (hi : y.io.wf ioUnlisted) :
    (y.runChannels v n).mem.wf Memory.unlisted ∧ (y.runChannels v n).io.wf ioUnlisted := by
  induction n with
  | zero => exact ⟨hm, hi⟩
  | succ n ih =>
    have h := ih (by omega)
    simp only [System.runChannels]
    split
    · exact System.runChannel_wf _ (by omega) h.1 h.2
    · exact h

/-- After a transfer the start bits read as clear (R394). -/
theorem System.runDma_start : (y.runDma v).ioGet 0x420B = 0 := by simp [System.runDma, System.ioSet_ioGet]

@[simp] theorem System.write8_romMap : (y.write8 a v).romMap = y.romMap := by
  unfold System.write8; split <;> simp [System.runDma]

theorem System.write8_wf (hm : y.mem.wf Memory.unlisted) (hi : y.io.wf ioUnlisted) :
    (y.write8 a v).mem.wf Memory.unlisted ∧ (y.write8 a v).io.wf ioUnlisted := by
  have h := System.store8_wf y a v hm hi
  unfold System.write8
  split
  · have h' := System.runChannels_wf (y.store8 a v) v (Nat.le_refl 8) h.1 h.2
    exact ⟨h'.1, System.ioSet_wf _ _ (by omega) h'.2⟩
  · exact h

/-- Only a write to `$420B` in a system bank is more than a store. -/
theorem System.write8_eq_store8 (h : route y.romMap a ≠ .io 0x420B) : y.write8 a v = y.store8 a v := by
  simp [System.write8, h]

@[simp] theorem System.write8_cell : (y.write8 a v).cell b = y.cell b := by simp [System.cell]

theorem System.poke_wf (hm : y.mem.wf Memory.unlisted) : (y.poke a v).mem.wf Memory.unlisted := by
  unfold System.poke
  split
  · rename_i k h
    refine Memory.set_wf _ ?_ hm
    unfold System.cell at h
    split at h
    · rename_i k' h'; cases h; exact route_ram_lt a h'
    · rename_i k' h'; cases h; exact route_rom_lt a h'
    · cases h
    · cases h
  · exact hm

@[simp] theorem System.tickMath_mem : y.tickMath.mem = y.mem := rfl
@[simp] theorem System.tickMath_io : y.tickMath.io = y.io := rfl
@[simp] theorem System.tickMath_busLog : y.tickMath.busLog = y.busLog := rfl
@[simp] theorem System.tickMath_romMap : y.tickMath.romMap = y.romMap := rfl
@[simp] theorem System.tickMath_peek : y.tickMath.peek a = y.peek a := rfl

/-! ### Addresses that share a cell -/

/-- The low 16 bits of a cell's key are the offset of every address that reaches it. -/
theorem System.cell_off {k : Nat} (h : y.cell a = some k) : k % 65536 = a.off.toNat := by
  unfold System.cell at h
  rcases route_cases a y.romMap with ⟨j, hj, -, ho⟩ | ⟨j, hj, -, ho⟩ | hj | hj <;> rw [hj] at h <;> cases h
  · exact ho
  · exact ho

/-- Two addresses with different offsets never share a byte of memory. -/
theorem System.cell_ne {k : Nat} (hoff : a.off ≠ b.off) (h : y.cell a = some k) : y.cell b ≠ some k := by
  intro hb
  exact hoff (BitVec.eq_of_toNat_eq ((System.cell_off y a h).symm.trans (System.cell_off y b hb)))

end Sys2Proof.Machine
end

