-- ==== Sys2Proof/Laws/Accesses.lean ====
section
/-! SUPPORT. Every instruction reaches what stands behind the bus by one-byte reads and writes only; so what those keep, every
instruction keeps: the canonical form of memory and the cartridge's mapping. -/

namespace Sys2Proof.Machine

/-- `z` comes from `y` by one-byte reads and writes. -/
inductive System.Accesses (y : System) : System → Prop where
  | refl : System.Accesses y y
  | read {z : System} (h : System.Accesses y z) (a : Addr) : System.Accesses y (z.afterRead a)
  | write {z : System} (h : System.Accesses y z) (a : Addr) (v : Byte) : System.Accesses y (z.write8 a v)

variable {y : System} {s : State}

theorem System.Accesses.romMap {z : System} (h : y.Accesses z) : z.romMap = y.romMap := by
  induction h with
  | refl => rfl
  | read _ a ih => simpa using ih
  | write _ a v ih => simpa using ih

theorem System.Accesses.wf {z : System} (h : y.Accesses z) (hm : y.mem.wf Memory.unlisted) (hi : y.io.wf ioUnlisted) :
    z.mem.wf Memory.unlisted ∧ z.io.wf ioUnlisted := by
  induction h with
  | refl => exact ⟨hm, hi⟩
  | read _ a ih => simpa using ih
  | write _ a v ih => exact System.write8_wf _ _ _ ih.1 ih.2

theorem State.acc_read8 (h : y.Accesses s.sys) (a : Addr) : y.Accesses (s.read8 a).2.sys := h.read a
theorem State.acc_write8 (h : y.Accesses s.sys) (a : Addr) (v : Byte) : y.Accesses (s.write8 a v).sys := h.write a v
theorem State.acc_read16 (h : y.Accesses s.sys) (l : Loc) : y.Accesses (s.read16 l).2.sys := (h.read _).read _
theorem State.acc_read24 (h : y.Accesses s.sys) (l : Loc) : y.Accesses (s.read24 l).2.sys := ((h.read _).read _).read _
theorem State.acc_readW (h : y.Accesses s.sys) (w : Width) (l : Loc) : y.Accesses (s.readW w l).2.sys := by
  cases w
  · exact State.acc_read8 h _
  · exact State.acc_read16 h _
theorem State.acc_writeW (h : y.Accesses s.sys) (w : Width) (l : Loc) (v : Word) : y.Accesses (s.writeW w l v).sys := by
  cases w
  · exact h.write _ _
  · exact (h.write _ _).write _ _
theorem State.acc_writeWHighFirst (h : y.Accesses s.sys) (w : Width) (l : Loc) (v : Word) :
    y.Accesses (s.writeWHighFirst w l v).sys := by
  cases w
  · exact h.write _ _
  · exact (h.write _ _).write _ _
theorem State.acc_push8 (h : y.Accesses s.sys) (v : Byte) : y.Accesses (s.push8 v).sys := h.write _ _
theorem State.acc_push16 (h : y.Accesses s.sys) (v : Word) : y.Accesses (s.push16 v).sys := (h.write _ _).write _ _
theorem State.acc_push8N (h : y.Accesses s.sys) (v : Byte) : y.Accesses (s.push8N v).sys := h.write _ _
theorem State.acc_push16N (h : y.Accesses s.sys) (v : Word) : y.Accesses (s.push16N v).sys := (h.write _ _).write _ _
theorem State.acc_pushW (h : y.Accesses s.sys) (w : Width) (v : Word) : y.Accesses (s.pushW w v).sys := by
  cases w
  · exact State.acc_push8 h _
  · exact State.acc_push16 h _
theorem State.acc_pull8 (h : y.Accesses s.sys) : y.Accesses s.pull8.2.sys := h.read _
theorem State.acc_pull16 (h : y.Accesses s.sys) : y.Accesses s.pull16.2.sys := (h.read _).read _
theorem State.acc_pull8N (h : y.Accesses s.sys) : y.Accesses s.pull8N.2.sys := h.read _
theorem State.acc_pull16N (h : y.Accesses s.sys) : y.Accesses s.pull16N.2.sys := (h.read _).read _
theorem State.acc_pullW (h : y.Accesses s.sys) (w : Width) : y.Accesses (s.pullW w).2.sys := by
  cases w
  · exact State.acc_pull8 h
  · exact State.acc_pull16 h
theorem Mode.acc_resolve (h : y.Accesses s.sys) (m : Mode) : y.Accesses (m.resolve s).2.sys := by
  cases m with
  | dpInd d => exact State.acc_read16 h _
  | dpIndX d => exact State.acc_read16 h _
  | dpIndY d => exact State.acc_read16 h _
  | dpIndLong d => exact State.acc_read24 h _
  | dpIndLongY d => exact State.acc_read24 h _
  | srIndY d => exact State.acc_read16 h _
  | _ => exact h
theorem Source.acc_read (h : y.Accesses s.sys) (w : Width) (q : Source) : y.Accesses (q.read w s).2.sys := by
  cases q with
  | imm v => exact h
  | mem m => exact State.acc_readW (Mode.acc_resolve h m) _ _
theorem Mode.acc_store (h : y.Accesses s.sys) (w : Width) (m : Mode) (v : Word) : y.Accesses (m.store w v s).sys :=
  State.acc_writeW (Mode.acc_resolve h m) _ _ _
theorem Place.acc_modify (h : y.Accesses s.sys) (w : Width) (p : Place) (f : Word → Word) : y.Accesses (p.modify w f s).2.sys := by
  cases p with
  | acc => simpa [Place.modify] using h
  | mem m => exact State.acc_writeWHighFirst (State.acc_readW (Mode.acc_resolve h m) _ _) _ _ _
theorem State.acc_pushFrame (h : y.Accesses s.sys) (kind : InterruptKind) (ret : Word) : y.Accesses (s.pushFrame kind ret).sys := by
  unfold State.pushFrame; dsimp only
  split
  · exact State.acc_push8 (State.acc_push16 h _) _
  · exact State.acc_push8 (State.acc_push16 (State.acc_push8 h _) _) _
theorem State.acc_enterHandler (h : y.Accesses s.sys) (v : Word) : y.Accesses (s.enterHandler v).sys := by
  simp only [State.enterHandler, State.setPc_sys]; exact State.acc_read16 (by simpa using h) _
theorem State.acc_interrupt (h : y.Accesses s.sys) (kind : InterruptKind) (ret : Word) : y.Accesses (s.interrupt kind ret).sys :=
  State.acc_enterHandler (State.acc_pushFrame h _ _) _
theorem State.acc_rti (h : y.Accesses s.sys) : y.Accesses s.returnFromInterrupt.sys := by
  unfold State.returnFromInterrupt
  have h1 : y.Accesses (s.pull8.2.setP s.pull8.1).normalize.sys := by simpa using State.acc_pull8 h
  have h2 := State.acc_pull16 h1
  dsimp only
  split
  · simpa using h2
  · simp only [State.setPbr_sys]; exact State.acc_pull8 (by simpa using h2)
theorem State.acc_moveBlock (h : y.Accesses s.sys) (st : Word) (dst src : Byte) : y.Accesses (s.moveBlock st dst src).sys := by
  have h1 := State.acc_write8 (State.acc_read8 h (addr24 src s.x)) (addr24 dst s.y) (s.read8 (addr24 src s.x)).1
  unfold State.moveBlock; dsimp only
  split <;> simpa using h1
theorem State.acc_readProg (h : y.Accesses s.sys) (o : Word) (n : Nat) : y.Accesses (s.readProg o n).2.sys := by
  induction n generalizing s o with
  | zero => exact h
  | succ n ih => exact ih (State.acc_read8 h _) _
theorem State.acc_fetchBytes (h : y.Accesses s.sys) : y.Accesses s.fetchBytes.2.sys := State.acc_readProg (State.acc_read8 h _) _ _

/-- What an instruction does behind the bus is reads and writes. -/
theorem exec_accesses {i : Instr} {s t : State} (h : exec i s = .next t) : s.sys.Accesses t.sys := by
  have h0 : s.sys.Accesses s.sys := .refl
  cases exec_case_of_next h with
  | @lda q _ _ => simpa [State.opLda] using Source.acc_read h0 s.wA q
  | @ora q _ _ => simpa [State.logic, State.opOra] using Source.acc_read h0 s.wA q
  | @and q _ _ => simpa [State.logic, State.opAnd] using Source.acc_read h0 s.wA q
  | @eor q _ _ => simpa [State.logic, State.opEor] using Source.acc_read h0 s.wA q
  | @bit q _ _ => simpa [State.opBit] using Source.acc_read h0 s.wA q
  | @cmp q _ _ => simpa [State.compareFlags, State.opCmp] using Source.acc_read h0 s.wA q
  | @adc q _ _ => simpa [State.takeSum, State.opAdc] using Source.acc_read h0 s.wA q
  | @sbc q _ _ => simpa [State.takeSum, State.opSbc] using Source.acc_read h0 s.wA q
  | @ldx q _ _ => simpa [State.opLdx] using Source.acc_read h0 s.wX q
  | @ldy q _ _ => simpa [State.opLdy] using Source.acc_read h0 s.wX q
  | @cpx q _ _ => simpa [State.compareFlags, State.opCpx] using Source.acc_read h0 s.wX q
  | @cpy q _ _ => simpa [State.compareFlags, State.opCpy] using Source.acc_read h0 s.wX q
  | @sta m _ _ => simpa [State.opSta] using Mode.acc_store h0 s.wA m (s.acc s.wA)
  | @stx m _ _ => simpa [State.opStx] using Mode.acc_store h0 s.wX m (trunc s.wX s.x)
  | @sty m _ _ => simpa [State.opSty] using Mode.acc_store h0 s.wX m (trunc s.wX s.y)
  | @stz m _ _ => simpa [State.opStz] using Mode.acc_store h0 s.wA m 0
  | @inc p _ _ => simpa [State.opInc] using Place.acc_modify h0 s.wA p _
  | @dec p _ _ => simpa [State.opDec] using Place.acc_modify h0 s.wA p _
  | @asl p _ _ => simpa [State.shift, State.opAsl] using Place.acc_modify h0 s.wA p _
  | @lsr p _ _ => simpa [State.shift, State.opLsr] using Place.acc_modify h0 s.wA p _
  | @rol p _ _ => simpa [State.shift, State.opRol] using Place.acc_modify h0 s.wA p _
  | @ror p _ _ => simpa [State.shift, State.opRor] using Place.acc_modify h0 s.wA p _
  | @trb m _ _ => simpa [State.opTrb] using Place.acc_modify h0 s.wA (.mem m) _
  | @tsb m _ _ => simpa [State.opTsb] using Place.acc_modify h0 s.wA (.mem m) _
  | pha => simpa [State.opPha] using State.acc_pushW h0 s.wA s.c
  | phx => simpa [State.opPhx] using State.acc_pushW h0 s.wX s.x
  | phy => simpa [State.opPhy] using State.acc_pushW h0 s.wX s.y
  | phb => simpa [State.opPhb] using State.acc_push8 h0 s.dbr
  | phk => simpa [State.opPhk] using State.acc_push8 h0 s.pbr
  | php => simpa [State.opPhp] using State.acc_push8 h0 s.p
  | phd => simpa [State.opPhd] using State.acc_push16N h0 s.d
  | pea v => simpa [State.opPea] using State.acc_push16N h0 v
  | pei d => simpa [State.opPei] using State.acc_push16N (State.acc_read16 h0 (s.directNoWrap d)) _
  | per disp => simpa [State.opPer] using State.acc_push16N h0 (s.pc + 3 + disp)
  | pla => simpa [State.opPla] using State.acc_pullW h0 s.wA
  | plx => simpa [State.opPlx] using State.acc_pullW h0 s.wX
  | ply => simpa [State.opPly] using State.acc_pullW h0 s.wX
  | plb => simpa [State.opPlb] using State.acc_pull8N h0
  | pld => simpa [State.opPld] using State.acc_pull16N h0
  | plp => simpa [State.opPlp] using State.acc_pull8 h0
  | jmpAbsInd a => simpa [State.opJmpInd] using State.acc_read16 h0 (.bank0 a)
  | jmpAbsIndX a => simpa [State.opJmpIndX] using State.acc_read16 h0 (.prog s.pbr (a + s.x))
  | jmlAbsIndLong a => simpa [State.opJmlInd] using State.acc_read24 h0 (.bank0 a)
  | jsrAbs a => simpa [State.opJsr] using State.acc_push16 h0 (s.pc + 2)
  | jsrAbsIndX a => simpa [State.opJsrIndX] using
      State.acc_read16 (s := (s.push16N (s.pc + 2)).fixStackPage) (by simpa using State.acc_push16N h0 (s.pc + 2)) (.prog s.pbr (a + s.x))
  | jsl a => simpa [State.opJsl] using State.acc_push16N (State.acc_push8N h0 s.pbr) (s.pc + 3)
  | rts => simpa [State.opRts] using State.acc_pull16 h0
  | rtl => simpa [State.opRtl] using
      State.acc_pull8N (s := s.pull16N.2.setPc (s.pull16N.1 + 1)) (by simpa using State.acc_pull16N h0)
  | brk | cop => exact State.acc_interrupt h0 _ _
  | rti => exact State.acc_rti h0
  | mvn | mvp => exact State.acc_moveBlock h0 _ _ _
  | bpl | bmi | bvc | bvs | bcc | bcs | bne | beq | bra => unfold State.branch; split <;> exact h0
  | _ => simpa [State.branchLong, State.opJmp, State.opJml, State.opTax, State.opTay, State.opTxa, State.opTya, State.opTxy, State.opTyx, State.opTcd, State.opTdc, State.opTcs, State.opTsc, State.opTxs, State.opTsx, State.opInx, State.opIny, State.opDex, State.opDey, State.opStp, State.opWai, State.opXba, State.opXce, State.opRep, State.opSep] using h0

end Sys2Proof.Machine
end

