-- ==== Sys2Proof/Laws/Ops.lean ====
section
/-! SUPPORT. What each shared operation does to the part of the state it writes: bytes of a word, flags, accumulator, memory, stack. -/

namespace Sys2Proof.Machine

/-! ### Bytes of a word -/

theorem toNat_lo8 (v : Word) : (lo8 v).toNat = v.toNat % 256 := by simp [lo8, BitVec.toNat_setWidth]

theorem toNat_hi8 (v : Word) : (hi8 v).toNat = v.toNat / 256 := by
  have := v.isLt; simp [hi8, BitVec.toNat_setWidth, Nat.shiftRight_eq_div_pow]; omega

theorem toNat_join16 (h l : Byte) : (join16 h l).toNat = h.toNat * 256 + l.toNat := by
  have e : (join16 h l).toNat = (h ++ l).toNat := rfl
  rw [e, BitVec.toNat_append, ← Nat.shiftLeft_add_eq_or_of_lt l.isLt, Nat.shiftLeft_eq]

theorem toNat_zext16 (b : Byte) : (zext16 b).toNat = b.toNat := by
  have := b.isLt; simp [zext16, BitVec.toNat_setWidth]; omega

theorem toNat_addr24 (b : Byte) (o : Word) : (addr24 b o).toNat = b.toNat * 65536 + o.toNat := by
  have e : (addr24 b o).toNat = (b ++ o).toNat := rfl
  rw [e, BitVec.toNat_append, ← Nat.shiftLeft_add_eq_or_of_lt o.isLt, Nat.shiftLeft_eq]

theorem Addr.toNat_off (a : Addr) : a.off.toNat = a.toNat % 65536 := by simp [Addr.off, BitVec.toNat_setWidth]

theorem Addr.toNat_bank (a : Addr) : a.bank.toNat = a.toNat / 65536 := by
  have := a.isLt; simp [Addr.bank, BitVec.toNat_setWidth, Nat.shiftRight_eq_div_pow]; omega

@[simp] theorem lo8_join16 (h l : Byte) : lo8 (join16 h l) = l := by
  have := l.isLt
  apply BitVec.eq_of_toNat_eq; rw [toNat_lo8, toNat_join16]; omega

@[simp] theorem hi8_join16 (h l : Byte) : hi8 (join16 h l) = h := by
  have := l.isLt
  apply BitVec.eq_of_toNat_eq; rw [toNat_hi8, toNat_join16]; omega

@[simp] theorem join16_hi_lo (v : Word) : join16 (hi8 v) (lo8 v) = v := by
  apply BitVec.eq_of_toNat_eq; rw [toNat_join16, toNat_lo8, toNat_hi8]; omega

@[simp] theorem lo8_zext16 (b : Byte) : lo8 (zext16 b) = b := by
  have := b.isLt
  apply BitVec.eq_of_toNat_eq; rw [toNat_lo8, toNat_zext16]; omega

@[simp] theorem hi8_zext16 (b : Byte) : hi8 (zext16 b) = 0 := by
  have := b.isLt
  apply BitVec.eq_of_toNat_eq; rw [toNat_hi8, toNat_zext16]; simp; omega

theorem zext16_eq_join16 (b : Byte) : zext16 b = join16 0 b := by
  apply BitVec.eq_of_toNat_eq; rw [toNat_zext16, toNat_join16]; simp

@[simp] theorem addr24_off (b : Byte) (o : Word) : (addr24 b o).off = o := by
  have := o.isLt
  apply BitVec.eq_of_toNat_eq; rw [Addr.toNat_off, toNat_addr24]; omega

@[simp] theorem addr24_bank (b : Byte) (o : Word) : (addr24 b o).bank = b := by
  have := o.isLt
  apply BitVec.eq_of_toNat_eq; rw [Addr.toNat_bank, toNat_addr24]; omega

@[simp] theorem addr24_bank_off (a : Addr) : addr24 a.bank a.off = a := by
  apply BitVec.eq_of_toNat_eq; rw [toNat_addr24, Addr.toNat_bank, Addr.toNat_off]; omega

@[simp] theorem trunc_w8 (v : Word) : trunc .w8 v = zext16 (lo8 v) := rfl
@[simp] theorem trunc_w16 (v : Word) : trunc .w16 v = v := rfl
@[simp] theorem trunc_trunc (w : Width) (v : Word) : trunc w (trunc w v) = trunc w v := by cases w <;> simp
@[simp] theorem lo8_trunc (w : Width) (v : Word) : lo8 (trunc w v) = lo8 v := by cases w <;> simp
@[simp] theorem trunc_zero (w : Width) : trunc w 0 = 0 := by cases w <;> rfl
@[simp] theorem widthOf_true : widthOf true = .w8 := rfl
@[simp] theorem widthOf_false : widthOf false = .w16 := rfl

/-- A value at width `w` as a number. -/
theorem toNat_trunc (w : Width) (v : Word) : (trunc w v).toNat = v.toNat % 2 ^ widthBits w := by
  have := v.isLt
  cases w
  · simp [toNat_zext16, toNat_lo8, widthBits]
  · simp [widthBits]; omega

theorem trunc_lt (w : Width) (v : Word) : (trunc w v).toNat < 2 ^ widthBits w := by
  rw [toNat_trunc]; exact Nat.mod_lt _ (by positivity)

@[simp] theorem msb_trunc (w : Width) (v : Word) : msb w (trunc w v) = msb w v := by
  cases w
  · simp [msb, widthBits, trunc, zext16, lo8]
  · rfl

/-! ### Flags -/

theorem setBit_getLsbD (p : Byte) (k j : Nat) (b : Bool) (hk : k < 8) :
    (setBit p k b).getLsbD j = if j = k then b else p.getLsbD j := by
  unfold setBit
  by_cases h : j = k
  · subst h; cases b <;> simp [hk]
  · have h' : k ≠ j := Ne.symm h
    by_cases hj : j < 8
    · cases b
      · simp [h, hj]
      · simp [h, hj]
    · cases b
      · simp [h, BitVec.getLsbD_of_ge p j (by omega)]
      · simp [h, h', BitVec.getLsbD_of_ge p j (by omega)]

theorem Flag.index_lt (f : Flag) : f.index < 8 := by cases f <;> decide

theorem Flag.index_inj {f g : Flag} (h : f.index = g.index) : f = g := by cases f <;> cases g <;> first | rfl | cases h

/-- A byte with one flag replaced: that flag reads as written, every other as before (R11, R28). -/
theorem State.flag_setFlag (s : State) (f g : Flag) (b : Bool) :
    (s.setFlag f b).flag g = if g = f then b else s.flag g := by
  simp only [State.flag, State.setFlag, State.setP_p, setBit_getLsbD _ _ _ _ f.index_lt]
  by_cases h : g = f
  · simp [h]
  · have : g.index ≠ f.index := fun hi => h (Flag.index_inj hi)
    simp [h, this]

@[simp] theorem State.flag_setFlag_self (s : State) (f : Flag) (b : Bool) : (s.setFlag f b).flag f = b := by
  simp [State.flag_setFlag]

theorem State.flag_setFlag_ne (s : State) {f g : Flag} (b : Bool) (h : g ≠ f) : (s.setFlag f b).flag g = s.flag g := by
  simp [State.flag_setFlag, h]

/-- `SetNZ` (R14). -/
theorem State.flag_setNZ (s : State) (w : Width) (v : Word) (g : Flag) :
    (s.setNZ w v).flag g = if g = .z then trunc w v == 0 else if g = .n then msb w v else s.flag g := by
  simp [State.setNZ, State.flag_setFlag]

theorem State.flag_eq_of_p {s t : State} (h : t.p = s.p) (f : Flag) : t.flag f = s.flag f := by simp [State.flag, h]

/-- Two states with the same flags have the same `P`. -/
theorem State.p_ext {s t : State} (h : ∀ f, t.flag f = s.flag f) : t.p = s.p := by
  apply BitVec.eq_of_getLsbD_eq; intro i hi
  have : ∃ f : Flag, f.index = i := by
    match i, hi with
    | 0, _ => exact ⟨.c, rfl⟩
    | 1, _ => exact ⟨.z, rfl⟩
    | 2, _ => exact ⟨.i, rfl⟩
    | 3, _ => exact ⟨.d, rfl⟩
    | 4, _ => exact ⟨.x, rfl⟩
    | 5, _ => exact ⟨.m, rfl⟩
    | 6, _ => exact ⟨.v, rfl⟩
    | 7, _ => exact ⟨.n, rfl⟩
  obtain ⟨f, rfl⟩ := this
  exact h f

/-! ### The accumulator -/

@[simp] theorem State.acc_trunc (s : State) (w : Width) : trunc w (s.acc w) = s.acc w := trunc_trunc w s.c

@[simp] theorem State.acc_setAcc (s : State) (w : Width) (v : Word) : (s.setAcc w v).acc w = trunc w v := by
  cases w <;> simp [State.acc, State.setAcc]

/-- An 8-bit accumulator write leaves `B` (R20). -/
theorem State.setAcc_w8_hi (s : State) (v : Word) : hi8 (s.setAcc .w8 v).c = hi8 s.c := by simp [State.setAcc]

theorem State.acc_eq_of_c {s t : State} (h : t.c = s.c) (w : Width) : t.acc w = s.acc w := by simp [State.acc, h]

/-! ### Reads change the bus history only -/

theorem System.readOf.refl (y : System) : y.readOf y := rfl

theorem System.readOf.trans {y z u : System} (h : y.readOf z) (h' : z.readOf u) : y.readOf u := by
  unfold System.readOf at *; rw [h', h]

theorem System.afterRead_readOf (y : System) (a : Addr) : y.readOf (y.afterRead a) := System.afterRead_eq y a

theorem System.readOf.mem {y z : System} (h : y.readOf z) : z.mem = y.mem := by rw [h]
theorem System.readOf.io {y z : System} (h : y.readOf z) : z.io = y.io := by rw [h]
theorem System.readOf.romMap {y z : System} (h : y.readOf z) : z.romMap = y.romMap := by rw [h]
theorem System.readOf.peek {y z : System} (h : y.readOf z) (a : Addr) : z.peek a = y.peek a := by
  simp [System.peek, System.cell, h.mem, h.romMap]

theorem State.afterRead_sys (s : State) (a : Addr) : s.sys.readOf (s.afterRead a).sys := System.afterRead_readOf _ _

theorem State.read8_sys (s : State) (a : Addr) : s.sys.readOf (s.read8 a).2.sys := State.afterRead_sys s a

theorem State.read16_sys (s : State) (l : Loc) : s.sys.readOf (s.read16 l).2.sys :=
  (State.read8_sys _ _).trans (State.read8_sys _ _)

theorem State.read24_sys (s : State) (l : Loc) : s.sys.readOf (s.read24 l).2.sys :=
  ((State.read8_sys _ _).trans (State.read8_sys _ _)).trans (State.read8_sys _ _)

theorem State.readW_sys (s : State) (w : Width) (l : Loc) : s.sys.readOf (s.readW w l).2.sys := by
  cases w
  · exact State.read8_sys _ _
  · exact State.read16_sys _ _

theorem Mode.resolve_sys (s : State) (m : Mode) : s.sys.readOf (m.resolve s).2.sys := by
  cases m with
  | dpInd d => exact State.read16_sys _ _
  | dpIndX d => exact State.read16_sys _ _
  | dpIndY d => exact State.read16_sys _ _
  | dpIndLong d => exact State.read24_sys _ _
  | dpIndLongY d => exact State.read24_sys _ _
  | srIndY d => exact State.read16_sys _ _
  | _ => exact System.readOf.refl _

theorem Source.read_sys (s : State) (w : Width) (q : Source) : s.sys.readOf (q.read w s).2.sys := by
  cases q with
  | imm v => exact System.readOf.refl _
  | mem m => exact (Mode.resolve_sys s m).trans (State.readW_sys _ _ _)

theorem State.pull8_sys (s : State) : s.sys.readOf s.pull8.2.sys := State.read8_sys _ _
theorem State.pull8N_sys (s : State) : s.sys.readOf s.pull8N.2.sys := State.read8_sys _ _
theorem State.pull16_sys (s : State) : s.sys.readOf s.pull16.2.sys := (State.pull8_sys _).trans (State.pull8_sys _)
theorem State.pull16N_sys (s : State) : s.sys.readOf s.pull16N.2.sys := (State.pull8N_sys _).trans (State.pull8N_sys _)
theorem State.pullW_sys (s : State) (w : Width) : s.sys.readOf (s.pullW w).2.sys := by
  cases w
  · exact State.pull8_sys _
  · exact State.pull16_sys _

theorem State.readProg_sys (s : State) (o : Word) (n : Nat) : s.sys.readOf (s.readProg o n).2.sys := by
  induction n generalizing s o with
  | zero => exact System.readOf.refl _
  | succ n ih => exact (State.read8_sys _ _).trans (ih _ _)

/-- An operand read fits its width. -/
theorem Source.read_trunc (s : State) (w : Width) (q : Source) : trunc w (q.read w s).1 = (q.read w s).1 := by
  cases q with
  | imm v => simp [Source.read]
  | mem m => cases w <;> simp [Source.read, State.readW]

theorem State.readByte_of_peek {s : State} {a : Addr} {b : Byte} (h : s.sys.peek a = some b) : s.readByte a = b := by
  simp only [System.peek, System.cell, Option.map_eq_some_iff] at h
  obtain ⟨k, hk, hb⟩ := h
  unfold State.readByte System.readByte
  split at hk <;> cases hk <;> simp_all

/-- A read of RAM or ROM makes no event. -/
theorem State.afterRead_of_cell {s : State} {a : Addr} {k : Nat} (h : s.sys.cell a = some k) : s.afterRead a = s := by
  have e : s.sys.afterRead a = s.sys := by
    rcases route_cases a s.sys.romMap with ⟨j, hj, -, -⟩ | ⟨j, hj, -, -⟩ | hj | hj <;>
      simp only [System.cell, System.afterRead, hj, reduceCtorEq] at h ⊢
  simp only [State.afterRead, e]; rfl

/-! ### Writes -/

theorem State.write8_sys (s : State) (a : Addr) (v : Byte) : (s.write8 a v).sys = s.sys.write8 a v := rfl

@[simp] theorem State.write8_cell (s : State) (a b : Addr) (v : Byte) : (s.write8 a v).sys.cell b = s.sys.cell b := by
  simp [State.write8_sys]

@[simp] theorem State.write8_romMap (s : State) (a : Addr) (v : Byte) : (s.write8 a v).sys.romMap = s.sys.romMap := by
  simp [State.write8_sys]

/-- Looking at memory after a write that starts no DMA. -/
theorem State.write8_peek_ne (s : State) (a b : Addr) (v : Byte) (hd : route s.sys.romMap a ≠ .io 0x420B)
    (h : s.sys.cell b = none ∨ s.sys.cell b ≠ s.sys.cell a) : (s.write8 a v).sys.peek b = s.sys.peek b := by
  rw [State.write8_sys, System.write8_eq_store8 _ _ _ hd]; exact System.store8_peek_ne _ _ _ _ h

/-- A written RAM byte shows the value. -/
theorem State.write8_peek_ram (s : State) (a : Addr) (v : Byte) {k : Nat} (h : route s.sys.romMap a = .ram k) :
    (s.write8 a v).sys.peek a = some v := by
  have hd : route s.sys.romMap a ≠ .io 0x420B := by simp [h]
  rw [State.write8_sys, System.write8_eq_store8 _ _ _ hd, System.store8_peek_ram _ _ _ _ h, if_pos (by simp [System.cell, h])]

end Sys2Proof.Machine
end

