-- ==== Sys2Proof/Laws/Results.lean ====
section
/-! SUPPORT. How to show the words statements are made of: flags set from a value, nothing written, bytes of a truncated value. -/

namespace Sys2Proof.Machine

variable {s t : State}

/-- A state whose `P` is that of `SetNZ` has N and Z of the value and every other flag as it was. -/
theorem State.setsNZ_of {w : Width} {v : Word} (h : t.p = (s.setNZ w v).p) : s.setsNZ t w v := by
  have e : ∀ f, t.flag f = (s.setNZ w v).flag f := fun f => State.flag_eq_of_p h f
  refine ⟨?_, ?_, fun f hf => ?_⟩
  · rw [e, State.flag_setNZ]; rfl
  · rw [e, State.flag_setNZ]; simp [beq_eq_decide]
  · rw [e, State.flag_setNZ]; simp at hf; simp [hf]

theorem State.setNZ_p_congr {w : Width} {v : Word} (h : s.p = t.p) : (s.setNZ w v).p = (t.setNZ w v).p := by
  simp [State.setNZ, State.setFlag, h]

@[simp] theorem State.setNZ_trunc (w : Width) (v : Word) : s.setNZ w (trunc w v) = s.setNZ w v := by simp [State.setNZ]

theorem State.writesNothing_of (h : s.sys.readOf t.sys) : s.writesNothing t := ⟨h, fun a => h.peek a⟩

theorem State.writesNothing_same (h : t.sys = s.sys) : s.writesNothing t :=
  State.writesNothing_of (by rw [h]; exact System.readOf.refl _)

theorem byteOf_trunc (w : Width) (v : Word) {k : Nat} (hk : k < widthBytes w) : byteOf (trunc w v) k = byteOf v k := by
  cases w
  · obtain rfl : k = 0 := by simpa [widthBytes] using hk
    simp [byteOf]
  · rfl

end Sys2Proof.Machine
end

