-- ==== Sys2Proof/Laws/Stores.lean ====
section
/-! SUPPORT. Which bytes a sequence of writes stores: operand writes, read-modify-writes and pushes, in the form `State.stores`. -/

namespace Sys2Proof.Machine

variable {s t u : State} {n : Nat} {addr : Nat → Addr} {byte : Nat → Byte}

theorem State.stores_zero (h : s.sys.readOf t.sys) : s.stores t 0 addr byte := by
  intro _
  refine ⟨fun k hk => absurd hk (Nat.not_lt_zero k), fun a _ => h.peek a, fun _ => ?_⟩
  rw [h]; exact ⟨rfl, rfl, rfl, rfl, rfl, rfl⟩

theorem System.write8_samePlatform {y : System} {a : Addr} {v : Byte} (h : (y.cell a).isSome = true) :
    y.samePlatform (y.write8 a v) := by
  have hd : route y.romMap a ≠ .io 0x420B := by
    intro hr; simp [System.cell, hr] at h
  rw [System.write8_eq_store8 _ _ _ hd]
  rcases route_cases a y.romMap with ⟨j, hj, -, -⟩ | ⟨j, hj, -, -⟩ | hj | hj
  · simp only [System.store8, hj]; exact ⟨rfl, rfl, rfl, rfl, rfl, rfl⟩
  · simp only [System.store8, hj]; exact ⟨rfl, rfl, rfl, rfl, rfl, rfl⟩
  · simp [System.cell, hj] at h
  · simp [System.cell, hj] at h

/-- One more write stores one more byte, at an address with another offset than those before. -/
theorem State.stores_succ (h : s.stores t n addr byte) (hm : t.sys.romMap = s.sys.romMap)
    (hu : u.sys = t.sys.write8 (addr n) (byte n)) (hd : ∀ k < n, (addr k).off ≠ (addr n).off) :
    s.stores u (n + 1) addr byte := by
  intro hio
  obtain ⟨h1, h2, h3⟩ := h (fun k hk => hio k (by omega))
  have hcell : ∀ a, t.sys.cell a = s.sys.cell a := fun a => by simp [System.cell, hm]
  have hn : route t.sys.romMap (addr n) ≠ .io 0x420B := by rw [hm]; exact hio n (by omega)
  have hw : t.sys.write8 (addr n) (byte n) = t.sys.store8 (addr n) (byte n) := System.write8_eq_store8 _ _ _ hn
  refine ⟨fun k hk hram => ?_, fun a ha => ?_, fun hc => ?_⟩
  · rw [hu, hw]
    obtain ⟨j, hj⟩ := hram
    by_cases hkn : k = n
    · subst hkn
      rw [System.store8_peek_ram _ _ _ _ (by rw [hm]; exact hj), if_pos (by rw [hcell]; simp [System.cell, hj])]
    · have hk' : k < n := by omega
      rw [System.store8_peek_ne]
      · exact h1 k hk' ⟨j, hj⟩
      · right
        have hcj : s.sys.cell (addr k) = some j := by simp [System.cell, hj]
        rw [hcell, hcell, hcj]
        exact Ne.symm (System.cell_ne s.sys (addr k) (addr n) (hd k hk') hcj)
  · rw [hu, hw, System.store8_peek_ne]
    · exact h2 a (fun k hk => ha k (by omega))
    · right; rw [hcell, hcell]; exact ha n (by omega)
  · obtain ⟨p1, p2, p3, p4, p5, p6⟩ := h3 (fun k hk => hc k (by omega))
    obtain ⟨q1, q2, q3, q4, q5, q6⟩ := System.write8_samePlatform (v := byte n) (y := t.sys) (a := addr n)
      (by rw [hcell]; exact hc n (by omega))
    rw [hu]
    exact ⟨q1.trans p1, q2.trans p2, q3.trans p3, q4.trans p4, q5.trans p5, q6.trans p6⟩

/-- Storing is a matter of the memory system alone. -/
theorem State.stores_congr (h : s.stores t n addr byte) (hu : u.sys = t.sys) : s.stores u n addr byte := by
  intro hio; have := h hio; rwa [← hu] at this

/-- A read after the stores changes none of them. -/
theorem State.stores_then_read (h : s.stores t n addr byte) (hr : t.sys.readOf u.sys) : s.stores u n addr byte := by
  intro hio
  obtain ⟨h1, h2, h3⟩ := h hio
  refine ⟨fun k hk hram => by rw [hr.peek]; exact h1 k hk hram, fun a ha => by rw [hr.peek]; exact h2 a ha, fun hc => ?_⟩
  obtain ⟨p1, p2, p3, p4, p5, p6⟩ := h3 hc
  rw [hr]; exact ⟨p1, p2, p3, p4, p5, p6⟩

/-- Only the first `n` addresses and bytes matter. -/
theorem State.stores_congr_fun {addr' : Nat → Addr} {byte' : Nat → Byte} (h : s.stores t n addr byte)
    (ha : ∀ k < n, addr' k = addr k) (hb : ∀ k < n, byte' k = byte k) : s.stores t n addr' byte' := by
  intro hio
  obtain ⟨h1, h2, h3⟩ := h (fun k hk => by rw [← ha k hk]; exact hio k hk)
  exact ⟨fun k hk hr => by rw [ha k hk, hb k hk]; exact h1 k hk (by rwa [ha k hk] at hr),
    fun a hh => h2 a (fun k hk => by rw [← ha k hk]; exact hh k hk),
    fun hh => h3 (fun k hk => by rw [← ha k hk]; exact hh k hk)⟩

/-- Two bytes stored in the other order are the same two bytes. -/
theorem State.stores_swap (h : s.stores t 2 (fun k => addr (1 - k)) (fun k => byte (1 - k))) : s.stores t 2 addr byte := by
  intro hio
  obtain ⟨h1, h2, h3⟩ := h (fun k hk => hio (1 - k) (by omega))
  refine ⟨fun k hk hr => ?_, fun a hh => h2 a (fun k hk => hh (1 - k) (by omega)), fun hh => h3 (fun k hk => hh (1 - k) (by omega))⟩
  have e : 1 - (1 - k) = k := by omega
  have := h1 (1 - k) (by omega)
  simp only [e] at this
  exact this hr

/-- The bytes of a datum have different offsets (at most two bytes). -/
theorem Loc.addr_off_ne (l : Loc) : (l.addr 0).off ≠ (l.addr 1).off := by
  intro h
  have h' := congrArg BitVec.toNat h
  cases l with
  | linear a =>
    have := a.isLt
    simp only [Loc.addr, Addr.toNat_off, BitVec.toNat_add, BitVec.toNat_ofNat] at h'
    omega
  | bank0 o =>
    have := o.isLt
    simp only [Loc.addr, addr24_off, BitVec.toNat_add, BitVec.toNat_ofNat] at h'
    omega
  | page o =>
    have := (lo8 o).isLt
    simp only [Loc.addr, addr24_off, toNat_join16, BitVec.toNat_add, BitVec.toNat_ofNat] at h'
    omega
  | prog b o =>
    have := o.isLt
    simp only [Loc.addr, addr24_off, BitVec.toNat_add, BitVec.toNat_ofNat] at h'
    omega

/-- A store instruction's write stores its bytes, low byte first. -/
theorem State.writeW_stores (h : s.sys.readOf t.sys) (w : Width) (l : Loc) (v : Word) :
    s.stores (t.writeW w l v) (widthBytes w) l.addr (byteOf v) := by
  have h0 : s.stores (t.write8 (l.addr 0) (lo8 v)) 1 l.addr (byteOf v) :=
    State.stores_succ (State.stores_zero h) h.romMap rfl (fun k hk => absurd hk (Nat.not_lt_zero k))
  cases w with
  | w8 => exact h0
  | w16 =>
    refine State.stores_succ h0 ?_ rfl ?_
    · rw [State.write8_romMap]; exact h.romMap
    · intro k hk
      obtain rfl : k = 0 := by omega
      exact l.addr_off_ne

/-- The write of a read-modify-write stores the same bytes. -/
theorem State.writeWHighFirst_stores (h : s.sys.readOf t.sys) (w : Width) (l : Loc) (v : Word) :
    s.stores (t.writeWHighFirst w l v) (widthBytes w) l.addr (byteOf v) := by
  cases w with
  | w8 => exact State.stores_succ (State.stores_zero h) h.romMap rfl (fun k hk => absurd hk (Nat.not_lt_zero k))
  | w16 =>
    apply State.stores_swap
    refine State.stores_succ (t := t.write8 (l.addr 1) (hi8 v)) ?_ ?_ rfl ?_
    · exact State.stores_succ (State.stores_zero h) h.romMap rfl (fun k hk => absurd hk (Nat.not_lt_zero k))
    · rw [State.write8_romMap]; exact h.romMap
    · intro k hk
      obtain rfl : k = 0 := by omega
      exact l.addr_off_ne.symm

@[simp] theorem State.push8_sys (v : Byte) : (s.push8 v).sys = s.sys.write8 (addr24 0 s.sp) v := rfl
@[simp] theorem State.push8_sp (v : Byte) : (s.push8 v).sp = s.spDown 1 := by simp [State.push8, State.spDown]
@[simp] theorem State.push8N_sys (v : Byte) : (s.push8N v).sys = s.sys.write8 (addr24 0 s.sp) v := rfl
@[simp] theorem State.push8N_sp (v : Byte) : (s.push8N v).sp = s.sp - 1 := rfl

theorem State.spDown_spDown (h : t.e = s.e) (hs : t.sp = s.spDown n) (k : Nat) : t.spDown k = s.spDown (n + k) := by
  simp only [State.spDown] at *
  rw [h, hs]
  split
  · simp only [hi8_join16, lo8_join16]
    congr 1
    apply BitVec.eq_of_toNat_eq
    have := (lo8 s.sp).isLt
    simp only [BitVec.toNat_sub, BitVec.toNat_ofNat]
    omega
  · apply BitVec.eq_of_toNat_eq
    have := s.sp.isLt
    simp only [BitVec.toNat_sub, BitVec.toNat_ofNat]
    omega

theorem State.spDown_zero : s.spDown 0 = s.sp := by simp [State.spDown]

theorem State.spUp_zero : s.spUp 0 = s.sp := by simp [State.spUp]

theorem State.spUp_spUp (h : t.e = s.e) (hs : t.sp = s.spUp n) (k : Nat) : t.spUp k = s.spUp (n + k) := by
  simp only [State.spUp] at *
  rw [h, hs]
  split
  · simp only [hi8_join16, lo8_join16]
    congr 1
    apply BitVec.eq_of_toNat_eq
    simp only [BitVec.toNat_add, BitVec.toNat_ofNat]
    omega
  · apply BitVec.eq_of_toNat_eq
    simp only [BitVec.toNat_add, BitVec.toNat_ofNat]
    omega

theorem State.stackBelow_eq (k : Nat) : s.stackBelow k = addr24 0 (s.spDown k) := rfl
theorem State.stackAbove_eq (k : Nat) : s.stackAbove k = addr24 0 (s.spUp k) := rfl

/-- Stack bytes at most 255 places apart have different offsets. -/
theorem State.stackBelow_off_ne {j k : Nat} (h : j < k) (hk : k < 256) : (s.stackBelow j).off ≠ (s.stackBelow k).off := by
  simp only [State.stackBelow_eq, addr24_off, State.spDown]
  intro e
  have e' := congrArg BitVec.toNat e
  split at e'
  · have := (lo8 s.sp).isLt
    simp only [toNat_join16, BitVec.toNat_sub, BitVec.toNat_ofNat] at e'
    omega
  · have := s.sp.isLt
    simp only [BitVec.toNat_sub, BitVec.toNat_ofNat] at e'
    omega

/-- A push stores one more byte below the ones before. -/
theorem State.push8_stores (h : s.stores t n s.stackBelow byte) (hn : n < 256) (hm : t.sys.romMap = s.sys.romMap)
    (hs : t.sp = s.spDown n) {v : Byte} (hv : byte n = v) : s.stores (t.push8 v) (n + 1) s.stackBelow byte := by
  refine State.stores_succ h hm ?_ (fun k hk => State.stackBelow_off_ne hk hn)
  rw [State.push8_sys, hs, State.stackBelow_eq, hv]

theorem State.push8N_stores (h : s.stores t n (fun k => addr24 0 (s.sp - BitVec.ofNat 16 k)) byte) (hn : n < 256)
    (hm : t.sys.romMap = s.sys.romMap) (hs : t.sp = s.sp - BitVec.ofNat 16 n) {v : Byte} (hv : byte n = v) :
    s.stores (t.push8N v) (n + 1) (fun k => addr24 0 (s.sp - BitVec.ofNat 16 k)) byte := by
  refine State.stores_succ h hm ?_ (fun k hk e => ?_)
  · rw [State.push8N_sys, hs, hv]
  · have := s.sp.isLt
    have e' := congrArg BitVec.toNat e
    simp only [addr24_off, BitVec.toNat_sub, BitVec.toNat_ofNat] at e'
    omega

/-! ### What a read of RAM or ROM gives -/

theorem System.peek_isSome_cell {y : System} {a : Addr} {b : Byte} (h : y.peek a = some b) : ∃ k, y.cell a = some k := by
  simp only [System.peek, Option.map_eq_some_iff] at h
  obtain ⟨k, hk, -⟩ := h; exact ⟨k, hk⟩

/-- A read of a byte that memory shows gives that byte and changes nothing. -/
theorem State.read8_of_peek {a : Addr} {b : Byte} (h : s.sys.peek a = some b) : s.read8 a = (b, s) := by
  obtain ⟨k, hk⟩ := System.peek_isSome_cell h
  simp only [State.read8, State.readByte_of_peek h, State.afterRead_of_cell hk]

theorem State.read16_of_peek {l : Loc} {v : Word} (h : s.sys.showsWord (l.addr 0) (l.addr 1) v) : s.read16 l = (v, s) := by
  simp only [State.read16, State.read8_of_peek h.1, State.read8_of_peek h.2, join16_hi_lo]

theorem State.read24_of_peek {l : Loc} {v : Word} {b : Byte} (h : s.sys.showsWord (l.addr 0) (l.addr 1) v)
    (hb : s.sys.peek (l.addr 2) = some b) : s.read24 l = (addr24 b v, s) := by
  simp only [State.read24, State.read8_of_peek h.1, State.read8_of_peek h.2, State.read8_of_peek hb, join16_hi_lo]

/-- A byte after a read is the byte before it where memory shows one. -/
theorem System.readOf.peek_some {y z : System} (h : y.readOf z) {a : Addr} {b : Byte} (hp : y.peek a = some b) :
    z.peek a = some b := by rw [h.peek]; exact hp

/-- Offsets from `$8000` on in a system bank are ROM (R74). -/
theorem route_system_rom (map : RomMap) {bank : Byte} {off : Word}
    (hb : bank.toNat < 0x40 ∨ (0x80 ≤ bank.toNat ∧ bank.toNat < 0xC0)) (ho : 0x8000 ≤ off.toNat) :
    route map (addr24 bank off) = .rom (addr24 bank off).toNat := by
  have h1 : ¬ (bank.toNat = 0x7E ∨ bank.toNat = 0x7F) := by omega
  have h2 : isSystemBank bank.toNat = true := by simp [isSystemBank]; omega
  have h3 : ¬ off.toNat < 0x2000 := by omega
  simp [route, addr24_bank, addr24_off, h1, h2, h3, ho]

/-- Memory always shows a byte in ROM. -/
theorem System.peek_rom {y : System} {bank : Byte} {off : Word}
    (hb : bank.toNat < 0x40 ∨ (0x80 ≤ bank.toNat ∧ bank.toNat < 0xC0)) (ho : 0x8000 ≤ off.toNat) :
    ∃ b, y.peek (addr24 bank off) = some b := by
  simp [System.peek, System.cell, route_system_rom y.romMap hb ho]

end Sys2Proof.Machine
end

