-- ==== Sys2Proof/Laws/Arithmetic.lean ====
section
/-! SUPPORT. What the computations of ADC, SBC, INC, DEC, the compares and the block moves give, as exact numbers. -/

namespace Sys2Proof.Machine

/-- A binary addition or subtraction draws nothing. -/
theorem State.drawIfDecimal_binary (s : State) (h : s.decimalMode = false) : s.drawIfDecimal = s := by
  simp [State.drawIfDecimal, h]

/-! ### ADC and SBC -/

theorem State.takeSum_acc (s : State) (w : Width) (r : Sum) : (s.takeSum w r).acc w = trunc w r.result := by
  simp only [State.takeSum]
  rw [State.acc_eq_of_c (State.setNZ_c _ _ _), State.acc_eq_of_c (State.setFlag_c _ _ _), State.acc_eq_of_c (State.setFlag_c _ _ _), State.acc_setAcc]

/-- The flags an addition or subtraction leaves (R230, R231). -/
theorem State.takeSum_flag (s : State) (w : Width) (r : Sum) (f : Flag) : (s.takeSum w r).flag f =
    match f with | .z => trunc w r.result == 0 | .n => msb w r.result | .v => r.overflow | .c => r.carry | f => s.flag f := by
  have := fun f => State.flag_eq_of_p (State.setAcc_p s w r.result) f
  cases f <;> simp [State.takeSum, State.flag_setNZ, State.flag_setFlag, this]

theorem State.takeSum_c_hi (s : State) (r : Sum) : hi8 (s.takeSum .w8 r).c = hi8 s.c := by
  simp [State.takeSum, State.setAcc]

theorem trunc_ofNat (w : Width) (n : Nat) (h : n < 2 ^ widthBits w) : trunc w (BitVec.ofNat 16 n) = BitVec.ofNat 16 n := by
  apply BitVec.eq_of_toNat_eq; rw [toNat_trunc]; cases w <;> simp [widthBits] at * <;> omega

theorem toNat_addBinary (w : Width) (a m : Word) (c : Bool) : (addBinary w a m c).result.toNat = (a.toNat + m.toNat + c.toNat) % 2 ^ widthBits w := by
  cases w <;> simp [addBinary, widthBits]; omega

theorem addBinary_trunc (w : Width) (a m : Word) (c : Bool) : trunc w (addBinary w a m c).result = (addBinary w a m c).result := by
  simp only [addBinary]; apply trunc_ofNat; exact Nat.mod_lt _ (by positivity)

theorem msb_eq_decide (w : Width) (v : Word) (h : v.toNat < 2 ^ widthBits w) : msb w v = decide (2 ^ (widthBits w - 1) ≤ v.toNat) := by
  simp only [msb, BitVec.getLsbD, Nat.testBit_eq_decide_div_mod_eq, decide_eq_decide]
  generalize v.toNat = n at *
  cases w <;> simp only [widthBits] at * <;> omega

/-- The overflow of an addition is that the signed sum does not fit (R230). -/
theorem addBinary_overflow (w : Width) (a m : Word) (c : Bool) (ha : a.toNat < 2 ^ widthBits w) (hm : m.toNat < 2 ^ widthBits w) :
    ((addBinary w a m c).overflow = true ↔ ¬ fitsSigned w (signedValue w a + signedValue w m + c.toNat)) := by
  have hr := toNat_addBinary w a m c
  have hrl : (addBinary w a m c).result.toNat < 2 ^ widthBits w := by rw [hr]; exact Nat.mod_lt _ (by positivity)
  have e : (addBinary w a m c).overflow = (msb w a == msb w m && msb w a != msb w (addBinary w a m c).result) := rfl
  rw [e, msb_eq_decide _ _ ha, msb_eq_decide _ _ hm, msb_eq_decide _ _ hrl, hr]
  simp only [fitsSigned, signedValue]
  have hc : c.toNat ≤ 1 := by cases c <;> simp
  generalize (addBinary w a m c).result.toNat = rr at *
  generalize c.toNat = cc at *
  generalize a.toNat = aa at *
  generalize m.toNat = mm at *
  simp only [Bool.and_eq_true, beq_iff_eq, bne_iff_ne, ne_eq, decide_eq_decide]
  cases w <;> simp only [widthBits] at * <;> split_ifs <;> omega

theorem toNat_complement (w : Width) (m : Word) (hm : m.toNat < 2 ^ widthBits w) : (complement w m).toNat = 2 ^ widthBits w - 1 - m.toNat := by
  cases w <;> simp [complement, widthBits] at * <;> omega

/-- The overflow of a subtraction is that the signed difference does not fit (R231). -/
theorem subBinary_overflow (w : Width) (a m : Word) (c : Bool) (ha : a.toNat < 2 ^ widthBits w) (hm : m.toNat < 2 ^ widthBits w) :
    ((subBinary w a m c).overflow = true ↔ ¬ fitsSigned w (signedValue w a - signedValue w m - (1 - c.toNat))) := by
  have hcm := toNat_complement w m hm
  rw [subBinary, addBinary_overflow _ _ _ _ ha (by rw [hcm]; have : 0 < 2 ^ widthBits w := by positivity
                                                   omega)]
  simp only [fitsSigned, signedValue, hcm]
  have hc : c.toNat ≤ 1 := by cases c <;> simp
  generalize c.toNat = cc at *
  cases w <;> simp [widthBits] at * <;> split_ifs <;> omega

theorem bcdValue_lt (k n : Nat) (h : bcdValid k n = true) : bcdValue k n < 10 ^ k := by
  induction k generalizing n with
  | zero => simp [bcdValue]
  | succ k ih =>
    simp only [bcdValid, Bool.and_eq_true, decide_eq_true_eq] at h
    have := ih _ h.2
    simp only [bcdValue, pow_succ]; omega

/-- The digit loop of R232 on packed BCD operands. -/
theorem addDigits_spec (k a m : Nat) (c : Bool) (ha : bcdValid k a = true) (hm : bcdValid k m = true) :
    bcdValid k (addDigits k a m c).1 = true ∧ (addDigits k a m c).1 < 16 ^ k ∧
    bcdValue k (addDigits k a m c).1 + 10 ^ k * (addDigits k a m c).2.toNat = bcdValue k a + bcdValue k m + c.toNat := by
  induction k generalizing a m c with
  | zero => simp [addDigits, bcdValid, bcdValue]
  | succ k ih =>
    simp only [bcdValid, Bool.and_eq_true, decide_eq_true_eq] at ha hm
    dsimp only [addDigits]
    simp only [bcdValid, bcdValue, Bool.and_eq_true, decide_eq_true_eq, pow_succ]
    generalize hu : (if 9 < a % 16 + m % 16 + c.toNat then a % 16 + m % 16 + c.toNat + 6 else a % 16 + m % 16 + c.toNat) = u
    obtain ⟨i1, i2, i3⟩ := ih (a / 16) (m / 16) (decide (15 < u)) ha.2 hm.2
    have hc : c.toNat ≤ 1 := by cases c <;> simp
    have hd : (decide (15 < u)).toNat = if 15 < u then 1 else 0 := by by_cases h : 15 < u <;> simp [h]
    rw [hd] at i3
    generalize addDigits k (a / 16) (m / 16) (decide (15 < u)) = r at *
    have e1 : (r.1 * 16 + u % 16) / 16 = r.1 := by omega
    have e2 : (r.1 * 16 + u % 16) % 16 = u % 16 := by omega
    rw [e1, e2]
    generalize c.toNat = cc at *
    generalize bcdValue k r.1 = A at *
    generalize bcdValue k (a/16) = B at *
    generalize bcdValue k (m/16) = C at *
    have e3 : 10 ^ k * 10 * r.2.toNat = 10 * (10 ^ k * r.2.toNat) := by ring
    rw [e3]
    generalize 10 ^ k * r.2.toNat = D at *
    refine ⟨⟨?_, i1⟩, by omega, ?_⟩
    · split_ifs at * <;> omega
    · split_ifs at * <;> omega

/-- The digit loop of R233 on packed BCD operands. -/
theorem subDigits_spec (k a m mc : Nat) (c : Bool) (ha : bcdValid k a = true) (hm : bcdValid k m = true) (hmc : mc + m % 16 ^ k = 16 ^ k - 1) :
    bcdValid k (subDigits k a mc c).1 = true ∧ (subDigits k a mc c).1 < 16 ^ k ∧
    bcdValue k (subDigits k a mc c).1 + bcdValue k m + 1 = bcdValue k a + 10 ^ k * (1 - (subDigits k a mc c).2.toNat) + c.toNat := by
  induction k generalizing a m mc c with
  | zero => cases c <;> simp [subDigits, bcdValid, bcdValue]
  | succ k ih =>
    simp only [bcdValid, Bool.and_eq_true, decide_eq_true_eq] at ha hm
    dsimp only [subDigits]
    simp only [bcdValid, bcdValue, Bool.and_eq_true, decide_eq_true_eq, pow_succ]
    have hp : 0 < 16 ^ k := by positivity
    have em : m % (16 ^ k * 16) = m % 16 + 16 * (m / 16 % 16 ^ k) := by rw [Nat.mul_comm, Nat.mod_mul]
    rw [pow_succ, em] at hmc
    have h1 : mc % 16 = 15 - m % 16 := by omega
    have h2 : mc / 16 + m / 16 % 16 ^ k = 16 ^ k - 1 := by omega
    generalize ht : a % 16 + mc % 16 + c.toNat = t
    obtain ⟨i1, i2, i3⟩ := ih (a / 16) (m / 16) (mc / 16) (decide (15 < t)) ha.2 hm.2 h2
    have hc : c.toNat ≤ 1 := by cases c <;> simp
    have hd : (decide (15 < t)).toNat = if 15 < t then 1 else 0 := by by_cases h : 15 < t <;> simp [h]
    rw [hd] at i3
    generalize subDigits k (a / 16) (mc / 16) (decide (15 < t)) = r at *
    generalize hdg : (if t ≤ 15 then (t + 10) % 16 else t % 16) = dg at *
    have hdl : dg < 16 := by split_ifs at hdg <;> omega
    have e1 : (r.1 * 16 + dg) / 16 = r.1 := by omega
    have e2 : (r.1 * 16 + dg) % 16 = dg := by omega
    rw [e1, e2]
    generalize c.toNat = cc at *
    generalize bcdValue k r.1 = A at *
    generalize bcdValue k (a/16) = B at *
    generalize bcdValue k (m/16) = C at *
    have e3 : 10 ^ k * 10 * (1 - r.2.toNat) = 10 * (10 ^ k * (1 - r.2.toNat)) := by ring
    rw [e3]
    generalize 10 ^ k * (1 - r.2.toNat) = D at *
    refine ⟨⟨?_, i1⟩, by omega, ?_⟩
    · split_ifs at * <;> omega
    · split_ifs at * <;> omega

theorem sixteen_pow (w : Width) : 16 ^ (widthBits w / 4) = 2 ^ widthBits w := by cases w <;> simp [widthBits]

theorem addDecimal_spec (w : Width) (k : Nat) (a m : Word) (c : Bool) (ha : bcdValid (widthBits w / 4) a.toNat = true) (hm : bcdValid (widthBits w / 4) m.toNat = true) :
    ((addDecimal w k a m c).result.toNat = (addDigits (widthBits w / 4) a.toNat m.toNat c).1 ∧
    trunc w (addDecimal w k a m c).result = (addDecimal w k a m c).result) ∧
     (addDecimal w k a m c).carry = (addDigits (widthBits w / 4) a.toNat m.toNat c).2 := by
  obtain ⟨-, h2, -⟩ := addDigits_spec _ _ _ c ha hm
  rw [sixteen_pow] at h2
  have h3 : 2 ^ widthBits w ≤ 65536 := by cases w <;> simp [widthBits]
  simp only [addDecimal, decimalSum, ha, hm, Bool.and_self, if_true, BitVec.toNat_ofNat, trunc_ofNat _ _ h2, and_true, true_and]
  omega

theorem subDecimal_spec (w : Width) (k : Nat) (a m : Word) (c : Bool) (hm' : m.toNat < 2 ^ widthBits w) (ha : bcdValid (widthBits w / 4) a.toNat = true) (hm : bcdValid (widthBits w / 4) m.toNat = true) :
    ((subDecimal w k a m c).result.toNat = (subDigits (widthBits w / 4) a.toNat (complement w m).toNat c).1 ∧
    trunc w (subDecimal w k a m c).result = (subDecimal w k a m c).result) ∧
     (subDecimal w k a m c).carry = (subDigits (widthBits w / 4) a.toNat (complement w m).toNat c).2 ∧
     (complement w m).toNat + m.toNat % 16 ^ (widthBits w / 4) = 16 ^ (widthBits w / 4) - 1 := by
  have hx : (complement w m).toNat + m.toNat % 16 ^ (widthBits w / 4) = 16 ^ (widthBits w / 4) - 1 := by
    rw [toNat_complement _ _ hm', sixteen_pow, Nat.mod_eq_of_lt hm']; omega
  obtain ⟨-, h2, -⟩ := subDigits_spec _ _ _ _ c ha hm hx
  rw [sixteen_pow] at h2
  have h3 : 2 ^ widthBits w ≤ 65536 := by cases w <;> simp [widthBits]
  refine ⟨?_, ?_, hx⟩
  · simp only [subDecimal, decimalSum, ha, hm, Bool.and_self, if_true, BitVec.toNat_ofNat, trunc_ofNat _ _ h2, and_true, true_and]
    omega
  · simp only [subDecimal, decimalSum, ha, hm, Bool.and_self, if_true]

theorem addDecimal_trunc (w : Width) (k : Nat) (a m : Word) (c : Bool) : trunc w (addDecimal w k a m c).result = (addDecimal w k a m c).result := by
  by_cases h : bcdValid (widthBits w / 4) a.toNat = true ∧ bcdValid (widthBits w / 4) m.toNat = true
  · exact (addDecimal_spec w k a m c h.1 h.2).1.2
  · rw [← Bool.and_eq_true] at h
    simp only [addDecimal, decimalSum, h]; simp

theorem subDecimal_trunc (w : Width) (k : Nat) (a m : Word) (c : Bool) (hm : m.toNat < 2 ^ widthBits w) : trunc w (subDecimal w k a m c).result = (subDecimal w k a m c).result := by
  by_cases h : bcdValid (widthBits w / 4) a.toNat = true ∧ bcdValid (widthBits w / 4) m.toNat = true
  · exact (subDecimal_spec w k a m c hm h.1 h.2).1.2
  · rw [← Bool.and_eq_true] at h
    simp only [subDecimal, decimalSum, h]; simp

/-! ### Read-modify-write, counting, bits -/

theorem Place.modify_fst (s : State) (w : Width) (p : Place) (g : Word → Word) : (Place.modify w p g s).1 = Place.value w p s := by
  cases p <;> rfl

theorem Place.value_trunc (s : State) (w : Width) (p : Place) : trunc w (Place.value w p s) = Place.value w p s := by
  cases p with
  | acc => exact State.acc_trunc _ _
  | mem m => exact Source.read_trunc _ _ _

theorem Place.value_lt (s : State) (w : Width) (p : Place) : (Place.value w p s).toNat < 2 ^ widthBits w := by
  rw [← Place.value_trunc]; exact trunc_lt _ _

/-- A read-modify-write leaves the new value in its operand (R260). -/
theorem Place.modify_leaves {s t : State} {w : Width} {p : Place} {g : Word → Word} (hc : t.c = (Place.modify w p g s).2.c) (hsys : t.sys = (Place.modify w p g s).2.sys)
    (hg : trunc w (g (Place.value w p s)) = g (Place.value w p s)) : s.leavesIn t w p (g (Place.value w p s)) := by
  cases p with
  | acc =>
    refine ⟨⟨?_, ?_⟩, State.writesNothing_same ?_⟩
    · rw [State.acc_eq_of_c hc]; show (s.setAcc w _).acc w = _; rw [State.acc_setAcc]; exact hg
    · intro hw; rw [hc]; subst hw; exact State.setAcc_w8_hi _ _
    · rw [hsys]; simp [Place.modify]
  | mem m =>
    refine ⟨by rw [hc]; simp [Place.modify], ?_⟩
    refine State.stores_congr ?_ hsys
    exact State.writeWHighFirst_stores (Source.read_sys s w (.mem m)) w _ _

theorem incValue_trunc (w : Width) (v : Word) : trunc w (incValue w v) = incValue w v := trunc_trunc _ _

theorem decValue_trunc (w : Width) (v : Word) : trunc w (decValue w v) = decValue w v := trunc_trunc _ _

theorem toNat_incValue (w : Width) (v : Word) : (incValue w v).toNat = (v.toNat + 1) % 2 ^ widthBits w := by
    rw [incValue, toNat_trunc]
    cases w <;> simp only [widthBits, BitVec.toNat_add] <;> simp

theorem toNat_decValue (w : Width) (v : Word) : ((decValue w v).toNat : Int) = (v.toNat - 1 : Int) % 2 ^ widthBits w := by
    rw [decValue, toNat_trunc]
    have := v.isLt
    cases w <;> simp only [widthBits, BitVec.toNat_sub] at * <;> simp <;> omega

theorem getLsbD_trunc (w : Width) (v : Word) (k : Nat) : (trunc w v).getLsbD k = (decide (k < widthBits w) && v.getLsbD k) := by
  cases w
  · simp [trunc, zext16, lo8, widthBits]; by_cases h : k < 8 <;> simp [h]; omega
  · simp only [trunc, widthBits]; by_cases h : k < 16 <;> simp [h]; exact BitVec.getLsbD_of_ge _ _ (by omega)

theorem byteOf_and (a b : Word) (k : Nat) : byteOf (a &&& b) k = byteOf a k &&& byteOf b k := by
  apply BitVec.eq_of_getLsbD_eq; intro i hi; unfold byteOf; split <;> simp [lo8, hi8, hi]

theorem byteOf_or (a b : Word) (k : Nat) : byteOf (a ||| b) k = byteOf a k ||| byteOf b k := by
  apply BitVec.eq_of_getLsbD_eq; intro i hi; unfold byteOf; split <;> simp [lo8, hi8, hi]

theorem byteOf_not (a : Word) (k : Nat) : byteOf (~~~a) k = ~~~byteOf a k := by
  apply BitVec.eq_of_getLsbD_eq; intro i hi; unfold byteOf; split <;> simp [lo8, hi8, hi] <;> omega

/-- The top bit of the difference a compare looks at (file 47). -/
theorem msb_difference (w : Width) (r m : Word) (hr : r.toNat < 2 ^ widthBits w) (hm : m.toNat < 2 ^ widthBits w) :
   msb w (difference w r m) = true ↔ (2 : Int) ^ (widthBits w - 1) ≤ ((r.toNat : Int) - m.toNat) % 2 ^ widthBits w := by
  have h : (difference w r m).toNat = (r.toNat + 2 ^ widthBits w - m.toNat) % 2 ^ widthBits w := by
    cases w <;> simp [difference, widthBits] ; omega
  simp only [msb, BitVec.getLsbD, Nat.testBit_eq_decide_div_mod_eq, decide_eq_true_eq, h]
  generalize r.toNat = a at *; generalize m.toNat = b at *
  cases w <;> simp only [widthBits] at * <;> omega

theorem trunc_add_one (w : Width) (v : Word) : ((trunc w (v + 1)).toNat : Int) = ((v.toNat : Int) + 1) % 2 ^ widthBits w := by
  rw [toNat_trunc]; cases w <;> simp [widthBits, BitVec.toNat_add]

theorem trunc_sub_one (w : Width) (v : Word) : ((trunc w (v + -1)).toNat : Int) = ((v.toNat : Int) + -1) % 2 ^ widthBits w := by
  have e : (v + -1).toNat = (v.toNat + 65535) % 65536 := by rw [BitVec.toNat_add]; rfl
  rw [toNat_trunc, e]; have := v.isLt
  cases w <;> simp only [widthBits] <;> omega

/-- One byte of a block move, as one update (R362). -/
theorem State.moveBlock_eq (s : State) (st : Word) (dst src : Byte) : s.moveBlock st dst src =
    (((((((s.read8 (addr24 src s.x)).2.write8 (addr24 dst s.y) (s.read8 (addr24 src s.x)).1).setDbr dst).setX (trunc s.wX (s.x + st))).setY
      (trunc s.wX (s.y + st))).setC (s.c - 1)).setPc (if s.c = 0 then s.pc + 3 else s.pc)) := by
  have hc : (s.c - 1 = 0xFFFF) ↔ s.c = 0 := by constructor <;> intro h <;> bv_omega
  unfold State.moveBlock
  by_cases h : s.c = 0
  · rw [if_pos h]; dsimp only; rw [if_pos (hc.2 h)]; apply State.ext_fields <;> simp; simp [State.advance]
  · rw [if_neg h]; dsimp only; rw [if_neg (fun h' => h (hc.1 h'))]; apply State.ext_fields <;> simp

end Sys2Proof.Machine
end

