-- ==== Sys2Proof/Laws/Forms.lean ====
section
/-! SUPPORT. Each mnemonic with several operand forms: every form of it runs the mnemonic's shared operation on that operand. -/

namespace Sys2Proof.Machine

variable (s : State) {i : Instr}

theorem exec_lda {q : Source} (h : ldaOf q = some i) : exec i s = .next (s.opLda q) := by
  cases q with
  | imm v => simp only [ldaOf, Option.some.injEq] at h; subst h; rfl
  | mem m =>
    cases m <;> (first | (simp only [ldaOf, reduceCtorEq] at h; done) | (simp only [ldaOf, Option.some.injEq] at h; subst h; rfl))

theorem exec_ldx {q : Source} (h : ldxOf q = some i) : exec i s = .next (s.opLdx q) := by
  cases q with
  | imm v => simp only [ldxOf, Option.some.injEq] at h; subst h; rfl
  | mem m =>
    cases m <;> (first | (simp only [ldxOf, reduceCtorEq] at h; done) | (simp only [ldxOf, Option.some.injEq] at h; subst h; rfl))

theorem exec_ldy {q : Source} (h : ldyOf q = some i) : exec i s = .next (s.opLdy q) := by
  cases q with
  | imm v => simp only [ldyOf, Option.some.injEq] at h; subst h; rfl
  | mem m =>
    cases m <;> (first | (simp only [ldyOf, reduceCtorEq] at h; done) | (simp only [ldyOf, Option.some.injEq] at h; subst h; rfl))

theorem exec_sta {q : Mode} (h : staOf q = some i) : exec i s = .next (s.opSta q) := by
  cases q <;> (first | (simp only [staOf, reduceCtorEq] at h; done) | (simp only [staOf, Option.some.injEq] at h; subst h; rfl))

theorem exec_stx {q : Mode} (h : stxOf q = some i) : exec i s = .next (s.opStx q) := by
  cases q <;> (first | (simp only [stxOf, reduceCtorEq] at h; done) | (simp only [stxOf, Option.some.injEq] at h; subst h; rfl))

theorem exec_sty {q : Mode} (h : styOf q = some i) : exec i s = .next (s.opSty q) := by
  cases q <;> (first | (simp only [styOf, reduceCtorEq] at h; done) | (simp only [styOf, Option.some.injEq] at h; subst h; rfl))

theorem exec_stz {q : Mode} (h : stzOf q = some i) : exec i s = .next (s.opStz q) := by
  cases q <;> (first | (simp only [stzOf, reduceCtorEq] at h; done) | (simp only [stzOf, Option.some.injEq] at h; subst h; rfl))

theorem exec_adc {q : Source} (h : adcOf q = some i) : exec i s = .next (s.opAdc q) := by
  cases q with
  | imm v => simp only [adcOf, Option.some.injEq] at h; subst h; rfl
  | mem m =>
    cases m <;> (first | (simp only [adcOf, reduceCtorEq] at h; done) | (simp only [adcOf, Option.some.injEq] at h; subst h; rfl))

theorem exec_sbc {q : Source} (h : sbcOf q = some i) : exec i s = .next (s.opSbc q) := by
  cases q with
  | imm v => simp only [sbcOf, Option.some.injEq] at h; subst h; rfl
  | mem m =>
    cases m <;> (first | (simp only [sbcOf, reduceCtorEq] at h; done) | (simp only [sbcOf, Option.some.injEq] at h; subst h; rfl))

theorem exec_inc {q : Place} (h : incOf q = some i) : exec i s = .next (s.opInc q) := by
  cases q with
  | acc => simp only [incOf, Option.some.injEq] at h; subst h; rfl
  | mem m =>
    cases m <;> (first | (simp only [incOf, reduceCtorEq] at h; done) | (simp only [incOf, Option.some.injEq] at h; subst h; rfl))

theorem exec_dec {q : Place} (h : decOf q = some i) : exec i s = .next (s.opDec q) := by
  cases q with
  | acc => simp only [decOf, Option.some.injEq] at h; subst h; rfl
  | mem m =>
    cases m <;> (first | (simp only [decOf, reduceCtorEq] at h; done) | (simp only [decOf, Option.some.injEq] at h; subst h; rfl))

theorem exec_and {q : Source} (h : andOf q = some i) : exec i s = .next (s.opAnd q) := by
  cases q with
  | imm v => simp only [andOf, Option.some.injEq] at h; subst h; rfl
  | mem m =>
    cases m <;> (first | (simp only [andOf, reduceCtorEq] at h; done) | (simp only [andOf, Option.some.injEq] at h; subst h; rfl))

theorem exec_ora {q : Source} (h : oraOf q = some i) : exec i s = .next (s.opOra q) := by
  cases q with
  | imm v => simp only [oraOf, Option.some.injEq] at h; subst h; rfl
  | mem m =>
    cases m <;> (first | (simp only [oraOf, reduceCtorEq] at h; done) | (simp only [oraOf, Option.some.injEq] at h; subst h; rfl))

theorem exec_eor {q : Source} (h : eorOf q = some i) : exec i s = .next (s.opEor q) := by
  cases q with
  | imm v => simp only [eorOf, Option.some.injEq] at h; subst h; rfl
  | mem m =>
    cases m <;> (first | (simp only [eorOf, reduceCtorEq] at h; done) | (simp only [eorOf, Option.some.injEq] at h; subst h; rfl))

theorem exec_bit {q : Source} (h : bitOf q = some i) : exec i s = .next (s.opBit q) := by
  cases q with
  | imm v => simp only [bitOf, Option.some.injEq] at h; subst h; rfl
  | mem m =>
    cases m <;> (first | (simp only [bitOf, reduceCtorEq] at h; done) | (simp only [bitOf, Option.some.injEq] at h; subst h; rfl))

theorem exec_trb {q : Mode} (h : trbOf q = some i) : exec i s = .next (s.opTrb q) := by
  cases q <;> (first | (simp only [trbOf, reduceCtorEq] at h; done) | (simp only [trbOf, Option.some.injEq] at h; subst h; rfl))

theorem exec_tsb {q : Mode} (h : tsbOf q = some i) : exec i s = .next (s.opTsb q) := by
  cases q <;> (first | (simp only [tsbOf, reduceCtorEq] at h; done) | (simp only [tsbOf, Option.some.injEq] at h; subst h; rfl))

theorem exec_asl {q : Place} (h : aslOf q = some i) : exec i s = .next (s.opAsl q) := by
  cases q with
  | acc => simp only [aslOf, Option.some.injEq] at h; subst h; rfl
  | mem m =>
    cases m <;> (first | (simp only [aslOf, reduceCtorEq] at h; done) | (simp only [aslOf, Option.some.injEq] at h; subst h; rfl))

theorem exec_lsr {q : Place} (h : lsrOf q = some i) : exec i s = .next (s.opLsr q) := by
  cases q with
  | acc => simp only [lsrOf, Option.some.injEq] at h; subst h; rfl
  | mem m =>
    cases m <;> (first | (simp only [lsrOf, reduceCtorEq] at h; done) | (simp only [lsrOf, Option.some.injEq] at h; subst h; rfl))

theorem exec_rol {q : Place} (h : rolOf q = some i) : exec i s = .next (s.opRol q) := by
  cases q with
  | acc => simp only [rolOf, Option.some.injEq] at h; subst h; rfl
  | mem m =>
    cases m <;> (first | (simp only [rolOf, reduceCtorEq] at h; done) | (simp only [rolOf, Option.some.injEq] at h; subst h; rfl))

theorem exec_ror {q : Place} (h : rorOf q = some i) : exec i s = .next (s.opRor q) := by
  cases q with
  | acc => simp only [rorOf, Option.some.injEq] at h; subst h; rfl
  | mem m =>
    cases m <;> (first | (simp only [rorOf, reduceCtorEq] at h; done) | (simp only [rorOf, Option.some.injEq] at h; subst h; rfl))

theorem exec_cmp {q : Source} (h : cmpOf q = some i) : exec i s = .next (s.opCmp q) := by
  cases q with
  | imm v => simp only [cmpOf, Option.some.injEq] at h; subst h; rfl
  | mem m =>
    cases m <;> (first | (simp only [cmpOf, reduceCtorEq] at h; done) | (simp only [cmpOf, Option.some.injEq] at h; subst h; rfl))

theorem exec_cpx {q : Source} (h : cpxOf q = some i) : exec i s = .next (s.opCpx q) := by
  cases q with
  | imm v => simp only [cpxOf, Option.some.injEq] at h; subst h; rfl
  | mem m =>
    cases m <;> (first | (simp only [cpxOf, reduceCtorEq] at h; done) | (simp only [cpxOf, Option.some.injEq] at h; subst h; rfl))

theorem exec_cpy {q : Source} (h : cpyOf q = some i) : exec i s = .next (s.opCpy q) := by
  cases q with
  | imm v => simp only [cpyOf, Option.some.injEq] at h; subst h; rfl
  | mem m =>
    cases m <;> (first | (simp only [cpyOf, reduceCtorEq] at h; done) | (simp only [cpyOf, Option.some.injEq] at h; subst h; rfl))

end Sys2Proof.Machine
end

