-- ==== Sys2Proof/Laws/Stack.lean ====
section
/-! SUPPORT. Addresses of operands as numbers, what pushes store and pulls find, and what `Normalize` leaves in each register. -/

namespace Sys2Proof.Machine

variable {s t : State}

/-! ### Addresses as numbers -/

theorem zext24_toNat (v : Word) : (zext24 v).toNat = v.toNat := by
  have := v.isLt; simp [zext24, BitVec.toNat_setWidth]; omega

theorem word_add_add (a : Word) (i j : Nat) : a + BitVec.ofNat 16 i + BitVec.ofNat 16 j = a + BitVec.ofNat 16 (i + j) := by
  apply BitVec.eq_of_toNat_eq; simp [BitVec.toNat_add]; omega

theorem Loc.linear_addr (a : Addr) (k : Nat) : ((Loc.linear a).addr k).toNat = (a.toNat + k) % 2 ^ 24 := by
  simp [Loc.addr, BitVec.toNat_add]

theorem Loc.bank0_addr (o : Word) (k : Nat) : ((Loc.bank0 o).addr k).toNat = (o.toNat + k) % 65536 := by
  simp [Loc.addr, toNat_addr24, BitVec.toNat_add]

theorem Loc.page_addr (o : Word) (k : Nat) :
    ((Loc.page o).addr k).toNat = (hi8 o).toNat * 256 + ((lo8 o).toNat + k) % 256 := by
  simp [Loc.addr, toNat_addr24, toNat_join16, BitVec.toNat_add]

theorem State.dataBank_addr (s : State) (p i : Word) (k : Nat) :
    ((s.dataBank p i).addr k).toNat = (s.dbr.toNat * 65536 + p.toNat + i.toNat + k) % 2 ^ 24 := by
  simp [State.dataBank, Loc.linear_addr, BitVec.toNat_add, zext24_toNat, toNat_addr24]

theorem State.direct_addr_nowrap (s : State) (d : Byte) (i : Word) (k : Nat) (h : ¬ (s.e = true ∧ lo8 s.d = 0)) :
    ((s.direct d i).addr k).toNat = (s.d.toNat + d.toNat + i.toNat + k) % 65536 := by
  have : s.dpw = false := by simpa [State.dpw] using h
  simp [State.direct, this, Loc.bank0_addr, BitVec.toNat_add, toNat_zext16]

theorem State.direct_addr_wrap (s : State) (d : Byte) (i : Word) (k : Nat) (h : s.e = true ∧ lo8 s.d = 0) :
    ((s.direct d i).addr k).toNat = (hi8 s.d).toNat * 256 + (d.toNat + (lo8 i).toNat + k) % 256 := by
  have : s.dpw = true := by simpa [State.dpw] using h
  simp [State.direct, this, Loc.page_addr, BitVec.toNat_add]

/-! ### Pushes -/

/-- One pushed byte. -/
theorem State.push8_stores_one (s : State) (v : Byte) : s.stores (s.push8 v) 1 s.stackBelow (fun _ => v) :=
  State.push8_stores (State.stores_zero (System.readOf.refl _)) (by omega) rfl State.spDown_zero.symm rfl

/-- A push at width `w` stores the value's bytes below `S`, the high one first (R69). -/
theorem State.pushW_stores (s : State) (w : Width) (v : Word) :
    s.stores (s.pushW w v) (widthBytes w) s.stackBelow (pushedByte w v) := by
  cases w
  · exact State.push8_stores (State.stores_zero (System.readOf.refl _)) (by omega) rfl State.spDown_zero.symm rfl
  · refine State.push8_stores (t := s.push8 (hi8 v)) ?_ (by omega) (by simp) (by simp) rfl
    exact State.push8_stores (State.stores_zero (System.readOf.refl _)) (by omega) rfl State.spDown_zero.symm rfl

theorem State.push16_sp (s : State) (v : Word) : (s.push16 v).sp = s.spDown 2 := by
  simp only [State.push16, State.push8_sp]
  exact State.spDown_spDown (by simp) (by simp) 1

theorem State.pushW_sp (s : State) (w : Width) (v : Word) : (s.pushW w v).sp = s.spDown (widthBytes w) := by
  cases w
  · simp [State.pushW, widthBytes]
  · exact s.push16_sp v

@[simp] theorem State.push16N_sp (s : State) (v : Word) : (s.push16N v).sp = s.sp - 2 := by
  simp [State.push16N]; apply BitVec.eq_of_toNat_eq; simp [BitVec.toNat_sub]; omega

/-- The 16-bit variant stores the same two bytes at `S` and `S - 1` by 16-bit arithmetic (R69). -/
theorem State.push16N_stores (h : s.sys.readOf t.sys) (hs : t.sp = s.sp) (v : Word) :
    s.stores (t.push16N v) 2 (fun k => addr24 0 (s.sp - BitVec.ofNat 16 k)) (pushedByte .w16 v) := by
  refine State.push8N_stores (t := t.push8N (hi8 v)) ?_ (by omega) (by simp; exact h.romMap) (by simp [hs]) rfl
  exact State.push8N_stores (State.stores_zero h) (by omega) h.romMap (by simp [hs]) rfl

theorem State.fixStackPage_sp (s : State) : s.fixStackPage.sp = s.spFixed s.sp := by
  unfold State.fixStackPage State.spFixed; split <;> simp

/-! ### Pulls -/

@[simp] theorem State.pull8_sp (s : State) : s.pull8.2.sp = s.spUp 1 := by simp [State.pull8, State.spUp]

@[simp] theorem State.pull16_sp (s : State) : s.pull16.2.sp = s.spUp 2 := by
  simp only [State.pull16, State.pull8_sp]; exact State.spUp_spUp (by simp) (by simp) 1

@[simp] theorem State.pullW_sp (s : State) (w : Width) : (s.pullW w).2.sp = s.spUp (widthBytes w) := by
  cases w <;> simp [State.pullW, widthBytes]

@[simp] theorem State.pull8N_sp (s : State) : s.pull8N.2.sp = s.sp + 1 := by simp [State.pull8N]

@[simp] theorem State.pull16N_sp (s : State) : s.pull16N.2.sp = s.sp + 2 := by
  simp only [State.pull16N, State.pull8N_sp]; exact word_add_add s.sp 1 1

theorem State.setSp_spUp_spUp (s : State) : (s.setSp (s.spUp 1)).spUp 1 = s.spUp 2 := State.spUp_spUp (by simp) (by simp) 1

/-- A pull of a byte that memory shows (R70). -/
theorem State.pull8_of_peek {b : Byte} (h : s.sys.peek (s.stackAbove 1) = some b) : s.pull8 = (b, s.setSp (s.spUp 1)) := by
  simp only [State.pull8]
  have : (if s.e = true then join16 (hi8 s.sp) (lo8 s.sp + 1) else s.sp + 1) = s.spUp 1 := by simp [State.spUp]
  rw [this]; exact State.read8_of_peek (by simpa [State.stackAbove_eq] using h)

/-- A pull of a word that memory shows (R70). -/
theorem State.pull16_of_peek {v : Word} (h : s.sys.showsWord (s.stackAbove 1) (s.stackAbove 2) v) :
    s.pull16 = (v, s.setSp (s.spUp 2)) := by
  have h2 : (s.setSp (s.spUp 1)).pull8 = (hi8 v, (s.setSp (s.spUp 1)).setSp (s.spUp 2)) := by
    have := State.pull8_of_peek (s := s.setSp (s.spUp 1)) (b := hi8 v)
      (by rw [State.stackAbove_eq, s.setSp_spUp_spUp]; simpa [State.stackAbove_eq] using h.2)
    rw [this, s.setSp_spUp_spUp]
  simp only [State.pull16, State.pull8_of_peek h.1, h2, join16_hi_lo]; rfl

theorem State.pullW_w8_of_peek {b : Byte} (h : s.sys.peek (s.stackAbove 1) = some b) :
    s.pullW .w8 = (zext16 b, s.setSp (s.spUp 1)) := by
  simp [State.pullW, State.pull8_of_peek h]

theorem State.pullW_w16_of_peek {v : Word} (h : s.sys.showsWord (s.stackAbove 1) (s.stackAbove 2) v) :
    s.pullW .w16 = (v, s.setSp (s.spUp 2)) := by
  simp [State.pullW, State.pull16_of_peek h]

/-- A pulled value fits its width. -/
theorem State.pullW_trunc (s : State) (w : Width) : trunc w (s.pullW w).1 = (s.pullW w).1 := by
  cases w <;> simp [State.pullW]

theorem State.pull8N_of_peek {b : Byte} (h : s.sys.peek (addr24 0 (s.sp + 1)) = some b) :
    s.pull8N = (b, s.setSp (s.sp + 1)) := by
  simp only [State.pull8N]; exact State.read8_of_peek (by simpa using h)

theorem State.pull16N_of_peek {v : Word} (h : s.sys.showsWord (addr24 0 (s.sp + 1)) (addr24 0 (s.sp + 2)) v) :
    s.pull16N = (v, s.setSp (s.sp + 2)) := by
  have h2 : (s.setSp (s.sp + 1)).pull8N = (hi8 v, (s.setSp (s.sp + 1)).setSp (s.sp + 2)) := by
    have e : s.sp + 1 + 1 = s.sp + 2 := word_add_add s.sp 1 1
    have := State.pull8N_of_peek (s := s.setSp (s.sp + 1)) (b := hi8 v)
      (by simp only [State.setSp_sp, State.setSp_sys, e]; exact h.2)
    rw [this]; simp only [State.setSp_sp, e]
  simp only [State.pull16N, State.pull8N_of_peek h.1, h2, join16_hi_lo]; rfl

/-- Pulling as many bytes as were pushed brings `S` back (R69, R70). -/
theorem State.spUp_of_spDown (he : t.e = s.e) {n : Nat} (hs : t.sp = s.spDown n) : t.spUp n = s.sp := by
  simp only [State.spUp, he, hs, State.spDown]
  split
  · simp only [hi8_join16, lo8_join16]
    have : lo8 s.sp - BitVec.ofNat 8 n + BitVec.ofNat 8 n = lo8 s.sp := by simp
    rw [this]; simp
  · simp

/-- The byte `k` above the stack pointer after `n` pushes is the byte `n - k` below where it stood. -/
theorem State.stackAbove_of_spDown (he : t.e = s.e) {n k : Nat} (hs : t.sp = s.spDown n) (hk : k ≤ n) :
    t.stackAbove k = s.stackBelow (n - k) := by
  rw [State.stackAbove_eq, State.stackBelow_eq]
  congr 1
  simp only [State.spUp, he, hs, State.spDown]
  have := s.sp.isLt
  have := (lo8 s.sp).isLt
  split
  · simp only [hi8_join16, lo8_join16]
    congr 1
    apply BitVec.eq_of_toNat_eq; simp [BitVec.toNat_sub, BitVec.toNat_add]; omega
  · apply BitVec.eq_of_toNat_eq; simp [BitVec.toNat_sub, BitVec.toNat_add]; omega

/-! ### Normalize -/

/-- The flags after `Normalize()` (R41). -/
theorem State.normalize_flag (s : State) (f : Flag) :
    s.normalize.flag f = if f = .m ∨ f = .x then s.e || s.flag f else s.flag f := by
  unfold State.normalize
  dsimp only
  have key : ∀ t : State,
      (if t.flag .x = true then (t.setX (zext16 (lo8 t.x))).setY (zext16 (lo8 t.y)) else t).flag f = t.flag f := by
    intro t; split <;> rfl
  rw [key]
  cases he : s.e
  · simp
  · simp only [if_true, State.setSp_flag, State.flag_setFlag]
    cases f <;> simp

/-- `S` after `Normalize()` (R41). -/
theorem State.normalize_sp (s : State) : s.normalize.sp = if s.e then join16 1 (lo8 s.sp) else s.sp := by
  unfold State.normalize
  dsimp only
  have key : ∀ t : State,
      (if t.flag .x = true then (t.setX (zext16 (lo8 t.x))).setY (zext16 (lo8 t.y)) else t).sp = t.sp := by
    intro t; split <;> rfl
  rw [key]; split <;> rfl

/-- `X` after `Normalize()` (R41). -/
theorem State.normalize_x (s : State) : s.normalize.x = if s.normalize.flag .x then zext16 (lo8 s.x) else s.x := by
  rw [State.normalize_flag]
  unfold State.normalize
  dsimp only
  cases he : s.e
  · cases hx : s.flag .x <;> simp [hx]
  · simp

/-- `Y` after `Normalize()` (R41). -/
theorem State.normalize_y (s : State) : s.normalize.y = if s.normalize.flag .x then zext16 (lo8 s.y) else s.y := by
  rw [State.normalize_flag]
  unfold State.normalize
  dsimp only
  cases he : s.e
  · cases hx : s.flag .x <;> simp [hx]
  · simp

end Sys2Proof.Machine
end

