-- ==== Sys2Proof/Laws/Interrupt.lean ====
section
/-! SUPPORT. Taking an exception and returning from one, each said once: the frame stored, the handler entered, what RTI restores. -/

namespace Sys2Proof.Machine

variable {s t : State}

/-- The byte stored `k` places below `S` by an exception. -/
def frameByte (e : Bool) (kind : InterruptKind) (pbr : Byte) (ret : Word) (p : Byte) (k : Nat) : Byte :=
  if e then if k = 0 then hi8 ret else if k = 1 then lo8 ret else pushedStatus kind true p
  else if k = 0 then pbr else if k = 1 then hi8 ret else if k = 2 then lo8 ret else p

theorem pushedStatus_native (kind : InterruptKind) (p : Byte) : pushedStatus kind false p = p := by cases kind <;> rfl

theorem State.pushFrame_sp (s : State) (kind : InterruptKind) (ret : Word) :
    (s.pushFrame kind ret).sp = s.spDown (if s.e then 3 else 4) := by
  unfold State.pushFrame
  cases he : s.e
  · simp only [Bool.false_eq_true, if_false, State.push8_sp]
    refine State.spDown_spDown (n := 3) (by simp) ?_ 1
    rw [State.push16_sp]
    exact State.spDown_spDown (n := 1) (by simp) (by simp) 2
  · simp only [if_true, State.push8_sp]
    exact State.spDown_spDown (n := 2) (by simp) (State.push16_sp _ _) 1

/-- The frame an exception stores (R380). -/
theorem State.pushFrame_stores (s : State) (kind : InterruptKind) (ret : Word) :
    s.stores (s.pushFrame kind ret) (if s.e then 3 else 4) s.stackBelow (frameByte s.e kind s.pbr ret s.p) := by
  unfold State.pushFrame
  cases he : s.e
  · simp only [Bool.false_eq_true, if_false]
    refine State.push8_stores (n := 3) ?_ (by omega) (by simp [State.push16]) ?_ (by simp [frameByte, pushedStatus_native])
    · refine State.push8_stores (n := 2) (t := (s.push8 s.pbr).push8 (hi8 ret)) ?_ (by omega) (by simp) ?_ (by simp [frameByte])
      · refine State.push8_stores (n := 1) ?_ (by omega) (by simp) (by simp) (by simp [frameByte])
        exact State.push8_stores (State.stores_zero (System.readOf.refl _)) (by omega) rfl State.spDown_zero.symm (by simp [frameByte])
      · simp only [State.push8_sp]; exact State.spDown_spDown (n := 1) (by simp) (by simp) 1
    · rw [State.push16_sp]; exact State.spDown_spDown (n := 1) (by simp) (by simp) 2
  · simp only [if_true]
    refine State.push8_stores (n := 2) ?_ (by omega) (by simp [State.push16]) (State.push16_sp _ _) (by simp [frameByte])
    refine State.push8_stores (n := 1) (t := s.push8 (hi8 ret)) ?_ (by omega) (by simp) (by simp) (by simp [frameByte])
    exact State.push8_stores (State.stores_zero (System.readOf.refl _)) (by omega) rfl State.spDown_zero.symm (by simp [frameByte])

@[simp] theorem State.enterHandler_pbr (s : State) (v : Word) : (s.enterHandler v).pbr = 0 := by
  simp only [State.enterHandler, State.setPc_pbr, State.read16_pbr, State.setPbr_pbr]

theorem State.enterHandler_sys (s : State) (v : Word) : s.sys.readOf (s.enterHandler v).sys := by
  have := State.read16_sys (((s.setFlag .i true).setFlag .d false).setPbr 0) (.bank0 v)
  simp only [State.enterHandler, State.setPc_sys]
  simpa using this

theorem State.enterHandler_flag (s : State) (v : Word) (f : Flag) :
    (s.enterHandler v).flag f = if f = .d then false else if f = .i then true else s.flag f := by
  simp only [State.enterHandler, State.setPc_flag, State.read16_flag, State.setPbr_flag, State.flag_setFlag]

/-- The handler starts where the vector points (R382). -/
theorem State.enterHandler_pc {v w : Word} (h : s.sys.showsWord (addr24 0 v) (addr24 0 (v + 1)) w) : (s.enterHandler v).pc = w := by
  have : ((((s.setFlag .i true).setFlag .d false).setPbr 0).read16 (.bank0 v)).1 = w := by
    rw [State.read16_of_peek (v := w) (by simpa [Loc.addr] using h)]
  simp only [State.enterHandler, State.setPc_pc, this]

theorem State.interrupt_stores (s : State) (kind : InterruptKind) (ret : Word) :
    s.stores (s.interrupt kind ret) (if s.e then 3 else 4) s.stackBelow (frameByte s.e kind s.pbr ret s.p) :=
  State.stores_then_read (s.pushFrame_stores kind ret) (State.enterHandler_sys _ _)

/-- Taking an exception (R380). -/
theorem State.interrupt_entersHandler (s : State) (kind : InterruptKind) (ret : Word) :
    s.entersHandler (s.interrupt kind ret) kind ret := by
  refine ⟨?_, ?_, ?_, ?_, ?_, ?_, ?_⟩
  · apply State.ext_fields <;> simp [State.interrupt, State.pushFrame_sp]
  · simp [State.interrupt, State.enterHandler_flag]
  · simp [State.interrupt, State.enterHandler_flag]
  · intro f hf; simp at hf; simp [State.interrupt, State.enterHandler_flag, hf]
  · intro v hv
    have hr := State.enterHandler_sys (s.pushFrame kind ret) (vectorOffset kind s.e)
    simp only [State.interrupt, System.showsWord, hr.peek] at hv
    exact State.enterHandler_pc hv
  · intro he
    have := s.interrupt_stores kind ret
    rw [he] at this
    exact State.stores_congr_fun this (fun _ _ => rfl) (fun k _ => by simp [frameByte])
  · intro he
    have := s.interrupt_stores kind ret
    rw [he] at this
    exact State.stores_congr_fun this (fun _ _ => rfl) (fun k _ => by simp [frameByte])

/-! ### What RTI and the sampling of a boundary leave alone -/

@[simp] theorem State.returnFromInterrupt_e (s : State) : s.returnFromInterrupt.e = s.e := by
  unfold State.returnFromInterrupt; dsimp only; split <;> simp
@[simp] theorem State.returnFromInterrupt_c (s : State) : s.returnFromInterrupt.c = s.c := by
  unfold State.returnFromInterrupt; dsimp only; split <;> simp
@[simp] theorem State.returnFromInterrupt_d (s : State) : s.returnFromInterrupt.d = s.d := by
  unfold State.returnFromInterrupt; dsimp only; split <;> simp
@[simp] theorem State.returnFromInterrupt_dbr (s : State) : s.returnFromInterrupt.dbr = s.dbr := by
  unfold State.returnFromInterrupt; dsimp only; split <;> simp
@[simp] theorem State.returnFromInterrupt_stopped (s : State) : s.returnFromInterrupt.stopped = s.stopped := by
  unfold State.returnFromInterrupt; dsimp only; split <;> simp
@[simp] theorem State.returnFromInterrupt_waiting (s : State) : s.returnFromInterrupt.waiting = s.waiting := by
  unfold State.returnFromInterrupt; dsimp only; split <;> simp
@[simp] theorem State.returnFromInterrupt_nmiPending (s : State) : s.returnFromInterrupt.nmiPending = s.nmiPending := by
  unfold State.returnFromInterrupt; dsimp only; split <;> simp
@[simp] theorem State.returnFromInterrupt_irqLine (s : State) : s.returnFromInterrupt.irqLine = s.irqLine := by
  unfold State.returnFromInterrupt; dsimp only; split <;> simp
@[simp] theorem State.returnFromInterrupt_inputs (s : State) : s.returnFromInterrupt.inputs = s.inputs := by
  unfold State.returnFromInterrupt; dsimp only; split <;> simp
@[simp] theorem State.returnFromInterrupt_free (s : State) : s.returnFromInterrupt.free = s.free := by
  unfold State.returnFromInterrupt; dsimp only; split <;> simp

/-- In emulation mode RTI leaves the program bank (R306). -/
theorem State.returnFromInterrupt_pbr (s : State) (h : s.e = true) : s.returnFromInterrupt.pbr = s.pbr := by
  unfold State.returnFromInterrupt; simp [h]

/-- Sampling changes the environment's three fields only (R375, R376). -/
theorem State.sample_eq (s : State) :
    s.sample = { s with inputs := s.sample.inputs, irqLine := s.sample.irqLine, nmiPending := s.sample.nmiPending } := by
  unfold State.sample; split <;> rfl

end Sys2Proof.Machine
end

