-- ==== Sys2Proof/Laws/Ending.lean ====
section
/-! SUPPORT. The end of a run (R447) is an end: a step from it changes only what the boundary and the platform's hidden clock change, and
leaves an end again. -/

namespace Sys2Proof.Machine

variable {s : State} {masked : Bool}

/-! ### Quiet samples -/

theorem State.quiet.notReset (h : s.quiet masked) : s.resetRequested = false := by
  unfold State.resetRequested; split
  · rfl
  · rename_i i _ hi; exact (h.2.2 i (by simp [hi])).2.1

theorem State.quiet.noNmi (h : s.quiet masked) : s.sample.nmiPending = false := by
  unfold State.sample; split
  · exact h.1
  · rename_i i _ hi; simp [h.1, (h.2.2 i (by simp [hi])).1]

theorem State.sample_nil (h : s.inputs = []) : s.sample = s := by unfold State.sample; rw [h]

theorem State.sample_irqLine_cons {i : Input} {rest : List Input} (h : s.inputs = i :: rest) : s.sample.irqLine = i.irqLine := by
  unfold State.sample; rw [h]; rfl

theorem State.quiet.sample (h : s.quiet masked) : s.sample.quiet masked := by
  have hs : s.sample.inputs = s.inputs.tail := by cases hi : s.inputs <;> simp [State.sample, hi]
  have hq : ∀ i ∈ s.sample.inputs, i.quiet masked := fun i hi => h.2.2 i (by rw [hs] at hi; exact List.mem_of_mem_tail hi)
  refine ⟨h.noNmi, ?_, hq⟩
  cases hi : s.sample.inputs with
  | nil => rw [State.sample_nil hi]; exact h.2.1
  | cons i rest => rw [State.sample_irqLine_cons hi]; exact (hq i (by rw [hi]; exact List.mem_cons_self)).2.2

theorem State.sample_setSys (y : System) : (s.setSys y).sample = s.sample.setSys y := by
  unfold State.sample; rw [State.setSys_inputs]; split <;> rfl

theorem State.passBoundary_quiet (h : s.quiet masked) : s.passBoundary.quiet masked := by
  have := h.sample
  refine ⟨this.1, ?_, this.2.2⟩
  rw [State.passBoundary, State.sample_setSys]; exact this.2.1

/-! ### Waiting -/

/-- A processor that waits for ever goes on waiting; only the environment's fields change (R447 (b), R378). -/
theorem State.waitsForever.step (h : s.waitsForever) (hs : s.stopped = false) :
    Sys2Proof.Machine.step s = .next s.sample ∧ s.sample.waitsForever ∧ s.sample.stopped = false := by
  have hi : s.sample.irqLine = false := by simpa using h.2.2.1
  have hw : s.sample.waiting = true := by simpa using h.1
  have hst : s.sample.stopped = false := by simpa using hs
  have ha : s.sample.action s.resetRequested = .idle := by
    simp only [State.action, h.2.notReset, h.2.noNmi, hi, hw, hst]; rfl
  refine ⟨?_, ⟨hw, h.2.sample⟩, hst⟩
  simp [Sys2Proof.Machine.step, ha, State.idle, hi]

/-! ### Looping -/

/-- `u` is `s` at another boundary: the environment's fields and the platform's hidden clock may differ, and nothing else. -/
def State.later (s u : State) : Prop :=
  u = { s with
    inputs := u.inputs
    irqLine := u.irqLine
    sys := { s.sys with rddivWait := u.sys.rddivWait, rdmpyWait := u.sys.rdmpyWait } }

theorem State.later.sys {u : State} (h : s.later u) :
    u.sys = { s.sys with rddivWait := u.sys.rddivWait, rdmpyWait := u.sys.rdmpyWait } := by conv_lhs => rw [h]

theorem State.later.peek {u : State} (h : s.later u) (a : Addr) : u.sys.peek a = s.sys.peek a := by rw [h.sys]; rfl

/-- A read that leaves no event was of RAM or ROM. -/
theorem State.read8_silent {a : Addr} (h : (s.read8 a).2.sys.busLog.length ≤ s.sys.busLog.length) : ∃ b, s.sys.peek a = some b := by
  simp only [State.read8, State.afterRead, State.setSys_sys, System.afterRead] at h
  cases hr : route s.sys.romMap a <;> simp [hr] at h <;> simp [System.peek, System.cell, hr]

theorem System.afterRead_grows (y : System) (a : Addr) : y.busLog.length ≤ (y.afterRead a).busLog.length := by
  unfold System.afterRead; split <;> simp

theorem System.store8_grows (y : System) (a : Addr) (v : Byte) : y.busLog.length ≤ (y.store8 a v).busLog.length := by
  unfold System.store8; split <;> simp

theorem System.moveBytes_grows (ch : DmaChannel) (k : Nat) (y : System) : y.busLog.length ≤ (ch.moveBytes k y).busLog.length := by
  induction k with
  | zero => exact Nat.le_refl _
  | succ k ih => exact ih.trans ((System.afterRead_grows _ _).trans (System.store8_grows _ _ _))

theorem System.runChannel_grows (n : Nat) (y : System) : y.busLog.length ≤ (y.runChannel n).busLog.length := by
  simpa only [System.runChannel, System.ioSet_busLog] using System.moveBytes_grows _ _ y

theorem System.runChannels_grows (start : Byte) (k : Nat) (y : System) : y.busLog.length ≤ (y.runChannels start k).busLog.length := by
  induction k with
  | zero => exact Nat.le_refl _
  | succ k ih => simp only [System.runChannels]; split <;> first | exact ih.trans (System.runChannel_grows _ _) | exact ih

theorem System.write8_grows (y : System) (a : Addr) (v : Byte) : y.busLog.length ≤ (y.write8 a v).busLog.length := by
  have h := System.store8_grows y a v
  unfold System.write8; split
  · simpa only [System.runDma, System.ioSet_busLog] using h.trans (System.runChannels_grows v 8 (y.store8 a v))
  · exact h

/-- The history only grows. -/
theorem System.Accesses.grows {y z : System} (h : y.Accesses z) : y.busLog.length ≤ z.busLog.length := by
  induction h with
  | refl => exact Nat.le_refl _
  | read _ a ih => exact ih.trans (System.afterRead_grows _ _)
  | write _ a v ih => exact ih.trans (System.write8_grows _ _ _)

/-- A silent read reads the same at every later boundary. -/
theorem State.read8_again {a : Addr} (h : (s.read8 a).2.sys.busLog.length ≤ s.sys.busLog.length) :
    (s.read8 a).2 = s ∧ ∀ u, s.later u → u.read8 a = ((s.read8 a).1, u) := by
  obtain ⟨b, hb⟩ := State.read8_silent h
  rw [State.read8_of_peek hb]
  exact ⟨rfl, fun u hu => State.read8_of_peek (by rw [hu.peek, hb])⟩

theorem State.read16_again {l : Loc} (h : (s.read16 l).2.sys.busLog.length ≤ s.sys.busLog.length) :
    (s.read16 l).2 = s ∧ ∀ u, s.later u → u.read16 l = ((s.read16 l).1, u) := by
  have h1 := State.read8_again (a := l.addr 0) ((System.afterRead_grows _ _).trans h)
  have h2 := State.read8_again (s := s) (a := l.addr 1) (by simpa only [State.read16, h1.1] using h)
  simp only [State.read16, h1.1, h2.1, true_and]
  intro u hu; rw [h1.2 u hu]; dsimp only; rw [h2.2 u hu]

theorem State.read24_again {l : Loc} (h : (s.read24 l).2.sys.busLog.length ≤ s.sys.busLog.length) :
    (s.read24 l).2 = s ∧ ∀ u, s.later u → u.read24 l = ((s.read24 l).1, u) := by
  have h1 := State.read8_again (a := l.addr 0) (((System.afterRead_grows _ _).trans (System.afterRead_grows _ _)).trans h)
  have h' := h
  simp only [State.read24, h1.1] at h'
  have h2 := State.read8_again (s := s) (a := l.addr 1) ((System.afterRead_grows _ _).trans h')
  rw [h2.1] at h'
  have h3 := State.read8_again (s := s) (a := l.addr 2) h'
  simp only [State.read24, h1.1, h2.1, h3.1, true_and]
  intro u hu; rw [h1.2 u hu]; dsimp only; rw [h2.2 u hu]; dsimp only; rw [h3.2 u hu]

theorem State.readProg_again {n : Nat} {o : Word} (h : (s.readProg o n).2.sys.busLog.length ≤ s.sys.busLog.length) :
    (s.readProg o n).2 = s ∧ ∀ u, s.later u → u.readProg o n = ((s.readProg o n).1, u) := by
  induction n generalizing o with
  | zero => exact ⟨rfl, fun _ _ => rfl⟩
  | succ n ih =>
    have h1 := State.read8_again (s := s) (a := addr24 s.pbr o) ((State.acc_readProg .refl _ n).grows.trans h)
    simp only [State.readProg, h1.1] at h ⊢
    have h2 := ih h
    refine ⟨h2.1, fun u hu => ?_⟩
    have hp : u.pbr = s.pbr := by rw [hu]
    rw [hp, h1.2 u hu]; dsimp only; rw [h2.2 u hu]

/-- A silent fetch fetches the same bytes at every later boundary. -/
theorem State.fetchBytes_again (h : s.fetchBytes.2.sys.busLog.length ≤ s.sys.busLog.length) :
    s.fetchBytes.2 = s ∧ ∀ u, s.later u → u.fetchBytes = (s.fetchBytes.1, u) := by
  have h1 := State.read8_again (s := s) (a := addr24 s.pbr s.pc) ((State.acc_readProg .refl _ _).grows.trans h)
  simp only [State.fetchBytes, h1.1] at h ⊢
  have h2 := State.readProg_again h
  refine ⟨h2.1, fun u hu => ?_⟩
  have hp : u.pbr = s.pbr := by rw [hu]
  have hc : u.pc = s.pc := by rw [hu]
  have hf : ∀ f, u.flag f = s.flag f := State.flag_eq_of_p (by rw [hu])
  rw [hp, hc, hf, hf, h1.2 u hu]; dsimp only; rw [h2.2 u hu]

theorem State.advance_ne {x : State} {n : Nat} (hx : x.pc = s.pc) (h : 1 ≤ n ∧ n ≤ 4) : x.advance n ≠ s := by
  intro e
  have := congrArg (fun t => t.pc.toNat) e
  simp only [State.advance, State.setPc_pc, hx, BitVec.toNat_add, BitVec.toNat_ofNat] at this
  have := s.pc.isLt; omega

theorem Mode.length_bounds (m : Mode) : 1 ≤ m.length ∧ m.length ≤ 4 := by cases m <;> simp [Mode.length]
theorem Source.length_bounds (w : Width) (q : Source) : 1 ≤ q.length w ∧ q.length w ≤ 4 := by
  cases q with
  | imm v => cases w <;> simp [Source.length, widthBytes]
  | mem m => exact m.length_bounds
theorem Place.length_bounds (q : Place) : 1 ≤ q.length ∧ q.length ≤ 4 := by
  cases q with
  | acc => simp [Place.length]
  | mem m => exact m.length_bounds

/-! #### Where the low byte of `S` goes -/

theorem lo8_add (a b : Word) : lo8 (a + b) = lo8 a + lo8 b := by simp only [lo8]; exact BitVec.setWidth_add _ _ (by omega)
theorem lo8_sub_ofNat (a : Word) (k : Nat) : lo8 (a - BitVec.ofNat 16 k) = lo8 a - BitVec.ofNat 8 k := by
  apply BitVec.eq_of_toNat_eq; simp [lo8, BitVec.toNat_sub]; omega

theorem State.lo8_spDown (k : Nat) : lo8 (s.spDown k) = lo8 s.sp - BitVec.ofNat 8 k := by
  unfold State.spDown; split
  · simp
  · exact lo8_sub_ofNat _ _

theorem State.lo8_spUp (k : Nat) : lo8 (s.spUp k) = lo8 s.sp + BitVec.ofNat 8 k := by
  unfold State.spUp; split
  · simp
  · rw [lo8_add]; congr 1; apply BitVec.eq_of_toNat_eq; simp [lo8]

theorem State.lo8_spFixed (v : Word) : lo8 (s.spFixed v) = lo8 v := by unfold State.spFixed; split <;> simp

theorem State.lo8_normalize_sp : lo8 s.normalize.sp = lo8 s.sp := by
  unfold State.normalize; dsimp only; split <;> split <;> simp

/-- RTI moves `S` up by three or four. -/
theorem State.lo8_returnFromInterrupt_sp :
    lo8 s.returnFromInterrupt.sp = lo8 s.sp + BitVec.ofNat 8 (if s.e then 3 else 4) := by
  unfold State.returnFromInterrupt; dsimp only
  cases he : s.e <;> simp [he, State.lo8_spUp, State.lo8_normalize_sp, BitVec.add_assoc]

theorem State.ne_of_lo8 {x : State} {b : Byte} (h : lo8 x.sp = lo8 s.sp + b) (hb : b ≠ 0) : x ≠ s := by
  intro e; subst e
  exact hb (by simpa using h.symm)

theorem State.interrupt_ne (kind : InterruptKind) (ret : Word) : s.interrupt kind ret ≠ s := by
  have hsp : (s.interrupt kind ret).sp = s.spDown (if s.e then 3 else 4) := by
    rw [← State.pushFrame_sp s kind ret]; simp [State.interrupt, State.enterHandler]
  refine State.ne_of_lo8 (b := -(if s.e then 3 else 4)) ?_ (by split <;> decide)
  rw [hsp, State.lo8_spDown, BitVec.sub_eq_add_neg]; split <;> rfl

theorem State.moveBlock_ne (step : Word) (dst src : Byte) : s.moveBlock step dst src ≠ s := by
  intro e
  have h1 : (s.moveBlock step dst src).c = s.c - 1 := by unfold State.moveBlock; dsimp only; split <;> simp [State.advance]
  have h2 : s.c - 1 = s.c := h1.symm.trans (congrArg State.c e)
  bv_omega

/-! #### Nothing but a jump or branch to itself changes nothing -/

theorem exec_again_branch {u : State} {i : Instr} (taken : Bool) (d : Byte) (hs : s = s.branch taken d) (hp : u.pc = s.pc)
    (h : exec i u = .next (u.branch taken d)) : exec i u = .next u := by
  obtain ⟨pc, hb⟩ := s.branch_eq taken d
  have hpc : s.pc = (s.branch taken d).pc := congrArg State.pc hs
  have : u.branch taken d = u := by
    have e : (u.branch taken d).pc = u.pc := by
      rw [hp, hpc]; unfold State.branch; split <;> simp [hp, State.advance]
    obtain ⟨q, hq⟩ := u.branch_eq taken d
    rw [hq] at e ⊢; simp only [State.setPc_pc] at e; rw [e]; rfl
  rw [h, this]

/-- An instruction that changes nothing at all changes nothing at every later boundary. -/
theorem exec_again {i : Instr} (h : exec i s = .next s) : ∀ u, s.later u → exec i u = .next u := by
  intro u hu
  obtain ⟨t, ht, hc⟩ : ∃ t, s = t ∧ ExecCase s i t := ⟨s, rfl, exec_case_of_next h⟩
  have hf : ∀ f, u.flag f = s.flag f := State.flag_eq_of_p (by rw [hu])
  have hpc : u.pc = s.pc := by rw [hu]
  have hpbr : u.pbr = s.pbr := by rw [hu]
  have hx : u.x = s.x := by rw [hu]
  cases hc with
  | ora _ => exact absurd ht.symm (State.advance_ne (by simp) (Source.length_bounds _ _))
  | and _ => exact absurd ht.symm (State.advance_ne (by simp) (Source.length_bounds _ _))
  | bit _ => exact absurd ht.symm (State.advance_ne (by simp) (Source.length_bounds _ _))
  | eor _ => exact absurd ht.symm (State.advance_ne (by simp) (Source.length_bounds _ _))
  | adc _ => exact absurd ht.symm (State.advance_ne (by simp) (Source.length_bounds _ _))
  | ldy _ => exact absurd ht.symm (State.advance_ne (by simp) (Source.length_bounds _ _))
  | lda _ => exact absurd ht.symm (State.advance_ne (by simp) (Source.length_bounds _ _))
  | ldx _ => exact absurd ht.symm (State.advance_ne (by simp) (Source.length_bounds _ _))
  | cpy _ => exact absurd ht.symm (State.advance_ne (by simp) (Source.length_bounds _ _))
  | cmp _ => exact absurd ht.symm (State.advance_ne (by simp) (Source.length_bounds _ _))
  | cpx _ => exact absurd ht.symm (State.advance_ne (by simp) (Source.length_bounds _ _))
  | sbc _ => exact absurd ht.symm (State.advance_ne (by simp) (Source.length_bounds _ _))
  | tsb _ => exact absurd ht.symm (State.advance_ne (by simp) (Mode.length_bounds _))
  | trb _ => exact absurd ht.symm (State.advance_ne (by simp) (Mode.length_bounds _))
  | stz _ => exact absurd ht.symm (State.advance_ne (by simp) (Mode.length_bounds _))
  | sta _ => exact absurd ht.symm (State.advance_ne (by simp) (Mode.length_bounds _))
  | sty _ => exact absurd ht.symm (State.advance_ne (by simp) (Mode.length_bounds _))
  | stx _ => exact absurd ht.symm (State.advance_ne (by simp) (Mode.length_bounds _))
  | asl _ => exact absurd ht.symm (State.advance_ne (by simp) (Place.length_bounds _))
  | inc _ => exact absurd ht.symm (State.advance_ne (by simp) (Place.length_bounds _))
  | rol _ => exact absurd ht.symm (State.advance_ne (by simp) (Place.length_bounds _))
  | dec _ => exact absurd ht.symm (State.advance_ne (by simp) (Place.length_bounds _))
  | lsr _ => exact absurd ht.symm (State.advance_ne (by simp) (Place.length_bounds _))
  | ror _ => exact absurd ht.symm (State.advance_ne (by simp) (Place.length_bounds _))
  | php => exact absurd ht.symm (State.advance_ne (by simp) (by omega))
  | phd => exact absurd ht.symm (State.advance_ne (by simp) (by omega))
  | clc => exact absurd ht.symm (State.advance_ne (by simp) (by omega))
  | tcs => exact absurd ht.symm (State.advance_ne (by simp) (by omega))
  | plp => exact absurd ht.symm (State.advance_ne (by simp) (by omega))
  | pld => exact absurd ht.symm (State.advance_ne (by simp) (by omega))
  | sec => exact absurd ht.symm (State.advance_ne (by simp) (by omega))
  | tsc => exact absurd ht.symm (State.advance_ne (by simp) (by omega))
  | pha => exact absurd ht.symm (State.advance_ne (by simp) (by omega))
  | phk => exact absurd ht.symm (State.advance_ne (by simp) (by omega))
  | cli => exact absurd ht.symm (State.advance_ne (by simp) (by omega))
  | phy => exact absurd ht.symm (State.advance_ne (by simp) (by omega))
  | tcd => exact absurd ht.symm (State.advance_ne (by simp) (by omega))
  | pla => exact absurd ht.symm (State.advance_ne (by simp) (by omega))
  | sei => exact absurd ht.symm (State.advance_ne (by simp) (by omega))
  | ply => exact absurd ht.symm (State.advance_ne (by simp) (by omega))
  | tdc => exact absurd ht.symm (State.advance_ne (by simp) (by omega))
  | dey => exact absurd ht.symm (State.advance_ne (by simp) (by omega))
  | txa => exact absurd ht.symm (State.advance_ne (by simp) (by omega))
  | phb => exact absurd ht.symm (State.advance_ne (by simp) (by omega))
  | tya => exact absurd ht.symm (State.advance_ne (by simp) (by omega))
  | txs => exact absurd ht.symm (State.advance_ne (by simp) (by omega))
  | txy => exact absurd ht.symm (State.advance_ne (by simp) (by omega))
  | tay => exact absurd ht.symm (State.advance_ne (by simp) (by omega))
  | tax => exact absurd ht.symm (State.advance_ne (by simp) (by omega))
  | plb => exact absurd ht.symm (State.advance_ne (by simp) (by omega))
  | clv => exact absurd ht.symm (State.advance_ne (by simp) (by omega))
  | tsx => exact absurd ht.symm (State.advance_ne (by simp) (by omega))
  | tyx => exact absurd ht.symm (State.advance_ne (by simp) (by omega))
  | iny => exact absurd ht.symm (State.advance_ne (by simp) (by omega))
  | dex => exact absurd ht.symm (State.advance_ne (by simp) (by omega))
  | wai => exact absurd ht.symm (State.advance_ne (by simp) (by omega))
  | cld => exact absurd ht.symm (State.advance_ne (by simp) (by omega))
  | phx => exact absurd ht.symm (State.advance_ne (by simp) (by omega))
  | stp => exact absurd ht.symm (State.advance_ne (by simp) (by omega))
  | inx => exact absurd ht.symm (State.advance_ne (by simp) (by omega))
  | nop => exact absurd ht.symm (State.advance_ne (by simp) (by omega))
  | xba => exact absurd ht.symm (State.advance_ne (by simp) (by omega))
  | sed => exact absurd ht.symm (State.advance_ne (by simp) (by omega))
  | plx => exact absurd ht.symm (State.advance_ne (by simp) (by omega))
  | xce => exact absurd ht.symm (State.advance_ne (by simp) (by omega))
  | wdm _ => exact absurd ht.symm (State.advance_ne (by simp) (by omega))
  | per _ => exact absurd ht.symm (State.advance_ne (by simp) (by omega))
  | rep _ => exact absurd ht.symm (State.advance_ne (by simp) (by omega))
  | pei _ => exact absurd ht.symm (State.advance_ne (by simp) (by omega))
  | sep _ => exact absurd ht.symm (State.advance_ne (by simp) (by omega))
  | pea _ => exact absurd ht.symm (State.advance_ne (by simp) (by omega))
  | bpl d => exact exec_again_branch _ d ht hpc (by rw [← hf]; rfl)
  | bmi d => exact exec_again_branch _ d ht hpc (by rw [← hf]; rfl)
  | bvc d => exact exec_again_branch _ d ht hpc (by rw [← hf]; rfl)
  | bvs d => exact exec_again_branch _ d ht hpc (by rw [← hf]; rfl)
  | bcc d => exact exec_again_branch _ d ht hpc (by rw [← hf]; rfl)
  | bcs d => exact exec_again_branch _ d ht hpc (by rw [← hf]; rfl)
  | bne d => exact exec_again_branch _ d ht hpc (by rw [← hf]; rfl)
  | beq d => exact exec_again_branch _ d ht hpc (by rw [← hf]; rfl)
  | bra d => exact exec_again_branch _ d ht hpc rfl
  | brk a => exact absurd ht.symm (State.interrupt_ne .brk _)
  | cop a => exact absurd ht.symm (State.interrupt_ne .cop _)
  | rti => exact absurd ht.symm (State.ne_of_lo8 State.lo8_returnFromInterrupt_sp (by split <;> decide))
  | mvp a b => exact absurd ht.symm (State.moveBlock_ne _ _ _)
  | mvn a b => exact absurd ht.symm (State.moveBlock_ne _ _ _)
  | jsrAbs a => exact absurd ht.symm (State.ne_of_lo8 (b := -2) (by simp [State.opJsr, State.push16_sp, State.lo8_spDown, BitVec.sub_eq_add_neg]) (by decide))
  | jsl a => exact absurd ht.symm (State.ne_of_lo8 (b := -3) (by simp [State.opJsl, State.fixStackPage_sp, State.lo8_spFixed, lo8_add, BitVec.sub_eq_add_neg, BitVec.add_assoc]; rfl) (by decide))
  | rts => exact absurd ht.symm (State.ne_of_lo8 (b := 2) (by simp [State.opRts, State.lo8_spUp]) (by decide))
  | rtl => exact absurd ht.symm (State.ne_of_lo8 (b := 3) (by simp [State.opRtl, State.fixStackPage_sp, State.lo8_spFixed, lo8_add, BitVec.add_assoc]; rfl) (by decide))
  | jsrAbsIndX a => exact absurd ht.symm (State.ne_of_lo8 (b := -2) (by simp [State.opJsrIndX, State.fixStackPage_sp, State.lo8_spFixed, lo8_add, BitVec.sub_eq_add_neg]; rfl) (by decide))
  | jmpAbs a => 
    have : a = u.pc := by rw [hpc, congrArg State.pc ht]; rfl
    show Host.Outcome.next (u.setPc a) = _; rw [this]; rfl
  | jmlLong a => 
    have h1 : a.off = u.pc := by rw [hpc, congrArg State.pc ht]; rfl
    have h2 : a.bank = u.pbr := by rw [hpbr, congrArg State.pbr ht]; rfl
    show Host.Outcome.next ((u.setPc a.off).setPbr a.bank) = _; rw [h1, h2]; rfl
  | jmpAbsInd a => 
    obtain ⟨h1, h2⟩ := State.read16_again (s := s) (l := .bank0 a) (le_of_eq (congrArg (·.sys.busLog.length) ht).symm)
    have : (s.read16 (.bank0 a)).1 = u.pc := by rw [hpc, congrArg State.pc ht]; rfl
    show Host.Outcome.next (u.opJmpInd a) = _
    simp only [State.opJmpInd, h2 u hu, this]; rfl
  | jmpAbsIndX a => 
    obtain ⟨h1, h2⟩ := State.read16_again (s := s) (l := .prog s.pbr (a + s.x)) (le_of_eq (congrArg (·.sys.busLog.length) ht).symm)
    have : (s.read16 (.prog s.pbr (a + s.x))).1 = u.pc := by rw [hpc, congrArg State.pc ht]; rfl
    show Host.Outcome.next (u.opJmpIndX a) = _
    simp only [State.opJmpIndX, hpbr, hx, h2 u hu, this]; rfl
  | jmlAbsIndLong a => 
    obtain ⟨h1, h2⟩ := State.read24_again (s := s) (l := .bank0 a) (le_of_eq (congrArg (·.sys.busLog.length) ht).symm)
    have h3 : (s.read24 (.bank0 a)).1.off = u.pc := by rw [hpc, congrArg State.pc ht]; rfl
    have h4 : (s.read24 (.bank0 a)).1.bank = u.pbr := by rw [hpbr, congrArg State.pbr ht]; rfl
    show Host.Outcome.next (u.opJmlInd a) = _
    simp only [State.opJmlInd, h2 u hu, h3, h4]; rfl
  | brl a => 
    have : u.pc + 3 + a = u.pc := by rw [hpc]; exact (congrArg State.pc ht).symm
    show Host.Outcome.next (u.setPc (u.pc + 3 + a)) = _; rw [this]; rfl

theorem State.later_passBoundary (h : s.sample.nmiPending = s.nmiPending) : s.later s.passBoundary := by
  apply State.ext_fields <;> simp [State.passBoundary, h]; rfl

/-- A processor that loops for ever goes on looping; only the boundary's own changes happen (R447 (c)). -/
theorem State.loopsForever.step (h : s.loopsForever) : s.passBoundary.loopsForever := by
  obtain ⟨hs, hw, hq, hstep⟩ := h
  have hf : ∀ f, s.passBoundary.flag f = s.flag f := State.flag_eq_of_p (by simp [State.passBoundary])
  have hq' : s.passBoundary.quiet (s.passBoundary.flag .i) := by rw [hf]; exact State.passBoundary_quiet hq
  have fetches : ∀ t : State, t.stopped = false → t.waiting = false → t.quiet (t.flag .i) →
      Sys2Proof.Machine.step t = exec t.sample.fetch.1 t.sample.fetch.2 := by
    intro t h1 h2 h3
    have hi : t.sample.flag .i = t.flag .i := State.flag_eq_of_p (by simp) _
    have : t.sample.action t.resetRequested = .fetch := by
      have e1 : t.sample.stopped = false := by simpa using h1
      have e2 : t.sample.waiting = false := by simpa using h2
      have e3 : (t.sample.irqLine && !t.flag .i) = false := by rcases h3.2.1 with e | e <;> simp [e]
      simp only [State.action, h3.notReset, h3.noNmi, hi, e1, e2, e3]; rfl
    simp only [Sys2Proof.Machine.step, this]
  refine ⟨by simpa [State.passBoundary] using hs, by simpa [State.passBoundary] using hw, hq', ?_⟩
  rw [fetches _ hs hw hq] at hstep
  rw [fetches _ (by simpa [State.passBoundary] using hs) (by simpa [State.passBoundary] using hw) hq']
  have hb : s.sample.fetch.2 = s.passBoundary.fetchBytes.2 := by simp only [State.fetch, State.sample_sys]; rfl
  rw [hb] at hstep
  have hg := State.fetchBytes_again (s := s.passBoundary) (exec_accesses hstep).grows
  rw [hg.1] at hstep
  have hl := State.later_passBoundary (s := s.passBoundary) (by rw [hq'.noNmi, hq'.1])
  have hn := hg.2 _ hl
  have hb2 : s.passBoundary.sample.fetch.2 = s.passBoundary.passBoundary := by
    simp only [State.fetch, State.sample_sys]
    show s.passBoundary.passBoundary.fetchBytes.2 = _
    rw [hn]
  have hi2 : s.passBoundary.sample.fetch.1 = s.sample.fetch.1 := by
    have e1 : ∀ f, s.passBoundary.sample.flag f = s.flag f := State.flag_eq_of_p (by simp [State.passBoundary])
    have e2 : ∀ f, s.sample.flag f = s.flag f := State.flag_eq_of_p (by simp)
    simp only [State.fetch, State.sample_sys, e1, e2]
    show decodeRaw (s.passBoundary.passBoundary.fetchBytes.1.getD 0 0) _ = decodeRaw (s.passBoundary.fetchBytes.1.getD 0 0) _
    rw [show s.passBoundary.sample.setSys s.passBoundary.sys.tickMath = s.passBoundary.passBoundary from rfl, hn]; rfl
  rw [hb2, hi2]
  exact exec_again hstep _ hl

end Sys2Proof.Machine
end

