-- ==== Sys2Proof/Laws/PerInstr.lean ====
section
/-! SUPPORT. The family `EncodeLength`, one lemma per instruction: its encoding has as many bytes as its opcode says (R102, R103). -/

namespace Sys2Proof.Laws.EncodeLength

/-- Under either setting of `P.m` and `P.x`, the instruction's encoding has the length its opcode gives. -/
def Statement (i : Instr) : Prop := ∀ m x : Bool, (encode m x i).length = opcodeLength m x i.opcode

theorem brk (sig : Byte) : Statement (.brk sig) := fun m x => (show _ = opcodeLength m x 0x00 from rfl)
theorem oraDpIndX (d : Byte) : Statement (.oraDpIndX d) := fun m x => (show _ = opcodeLength m x 0x01 from rfl)
theorem cop (sig : Byte) : Statement (.cop sig) := fun m x => (show _ = opcodeLength m x 0x02 from rfl)
theorem oraSr (d : Byte) : Statement (.oraSr d) := fun m x => (show _ = opcodeLength m x 0x03 from rfl)
theorem tsbDp (d : Byte) : Statement (.tsbDp d) := fun m x => (show _ = opcodeLength m x 0x04 from rfl)
theorem oraDp (d : Byte) : Statement (.oraDp d) := fun m x => (show _ = opcodeLength m x 0x05 from rfl)
theorem aslDp (d : Byte) : Statement (.aslDp d) := fun m x => (show _ = opcodeLength m x 0x06 from rfl)
theorem oraDpIndLong (d : Byte) : Statement (.oraDpIndLong d) := fun m x => (show _ = opcodeLength m x 0x07 from rfl)
theorem php : Statement .php := fun m x => (show _ = opcodeLength m x 0x08 from rfl)
theorem oraImm (v : Word) : Statement (.oraImm v) := fun m x => (show _ = opcodeLength m x 0x09 by cases m <;> rfl)
theorem aslAcc : Statement .aslAcc := fun m x => (show _ = opcodeLength m x 0x0A from rfl)
theorem phd : Statement .phd := fun m x => (show _ = opcodeLength m x 0x0B from rfl)
theorem tsbAbs (a : Word) : Statement (.tsbAbs a) := fun m x => (show _ = opcodeLength m x 0x0C from rfl)
theorem oraAbs (a : Word) : Statement (.oraAbs a) := fun m x => (show _ = opcodeLength m x 0x0D from rfl)
theorem aslAbs (a : Word) : Statement (.aslAbs a) := fun m x => (show _ = opcodeLength m x 0x0E from rfl)
theorem oraLong (a : Addr) : Statement (.oraLong a) := fun m x => (show _ = opcodeLength m x 0x0F from rfl)
theorem bpl (disp : Byte) : Statement (.bpl disp) := fun m x => (show _ = opcodeLength m x 0x10 from rfl)
theorem oraDpIndY (d : Byte) : Statement (.oraDpIndY d) := fun m x => (show _ = opcodeLength m x 0x11 from rfl)
theorem oraDpInd (d : Byte) : Statement (.oraDpInd d) := fun m x => (show _ = opcodeLength m x 0x12 from rfl)
theorem oraSrIndY (d : Byte) : Statement (.oraSrIndY d) := fun m x => (show _ = opcodeLength m x 0x13 from rfl)
theorem trbDp (d : Byte) : Statement (.trbDp d) := fun m x => (show _ = opcodeLength m x 0x14 from rfl)
theorem oraDpX (d : Byte) : Statement (.oraDpX d) := fun m x => (show _ = opcodeLength m x 0x15 from rfl)
theorem aslDpX (d : Byte) : Statement (.aslDpX d) := fun m x => (show _ = opcodeLength m x 0x16 from rfl)
theorem oraDpIndLongY (d : Byte) : Statement (.oraDpIndLongY d) := fun m x => (show _ = opcodeLength m x 0x17 from rfl)
theorem clc : Statement .clc := fun m x => (show _ = opcodeLength m x 0x18 from rfl)
theorem oraAbsY (a : Word) : Statement (.oraAbsY a) := fun m x => (show _ = opcodeLength m x 0x19 from rfl)
theorem incAcc : Statement .incAcc := fun m x => (show _ = opcodeLength m x 0x1A from rfl)
theorem tcs : Statement .tcs := fun m x => (show _ = opcodeLength m x 0x1B from rfl)
theorem trbAbs (a : Word) : Statement (.trbAbs a) := fun m x => (show _ = opcodeLength m x 0x1C from rfl)
theorem oraAbsX (a : Word) : Statement (.oraAbsX a) := fun m x => (show _ = opcodeLength m x 0x1D from rfl)
theorem aslAbsX (a : Word) : Statement (.aslAbsX a) := fun m x => (show _ = opcodeLength m x 0x1E from rfl)
theorem oraLongX (a : Addr) : Statement (.oraLongX a) := fun m x => (show _ = opcodeLength m x 0x1F from rfl)
theorem jsrAbs (a : Word) : Statement (.jsrAbs a) := fun m x => (show _ = opcodeLength m x 0x20 from rfl)
theorem andDpIndX (d : Byte) : Statement (.andDpIndX d) := fun m x => (show _ = opcodeLength m x 0x21 from rfl)
theorem jsl (a : Addr) : Statement (.jsl a) := fun m x => (show _ = opcodeLength m x 0x22 from rfl)
theorem andSr (d : Byte) : Statement (.andSr d) := fun m x => (show _ = opcodeLength m x 0x23 from rfl)
theorem bitDp (d : Byte) : Statement (.bitDp d) := fun m x => (show _ = opcodeLength m x 0x24 from rfl)
theorem andDp (d : Byte) : Statement (.andDp d) := fun m x => (show _ = opcodeLength m x 0x25 from rfl)
theorem rolDp (d : Byte) : Statement (.rolDp d) := fun m x => (show _ = opcodeLength m x 0x26 from rfl)
theorem andDpIndLong (d : Byte) : Statement (.andDpIndLong d) := fun m x => (show _ = opcodeLength m x 0x27 from rfl)
theorem plp : Statement .plp := fun m x => (show _ = opcodeLength m x 0x28 from rfl)
theorem andImm (v : Word) : Statement (.andImm v) := fun m x => (show _ = opcodeLength m x 0x29 by cases m <;> rfl)
theorem rolAcc : Statement .rolAcc := fun m x => (show _ = opcodeLength m x 0x2A from rfl)
theorem pld : Statement .pld := fun m x => (show _ = opcodeLength m x 0x2B from rfl)
theorem bitAbs (a : Word) : Statement (.bitAbs a) := fun m x => (show _ = opcodeLength m x 0x2C from rfl)
theorem andAbs (a : Word) : Statement (.andAbs a) := fun m x => (show _ = opcodeLength m x 0x2D from rfl)
theorem rolAbs (a : Word) : Statement (.rolAbs a) := fun m x => (show _ = opcodeLength m x 0x2E from rfl)
theorem andLong (a : Addr) : Statement (.andLong a) := fun m x => (show _ = opcodeLength m x 0x2F from rfl)
theorem bmi (disp : Byte) : Statement (.bmi disp) := fun m x => (show _ = opcodeLength m x 0x30 from rfl)
theorem andDpIndY (d : Byte) : Statement (.andDpIndY d) := fun m x => (show _ = opcodeLength m x 0x31 from rfl)
theorem andDpInd (d : Byte) : Statement (.andDpInd d) := fun m x => (show _ = opcodeLength m x 0x32 from rfl)
theorem andSrIndY (d : Byte) : Statement (.andSrIndY d) := fun m x => (show _ = opcodeLength m x 0x33 from rfl)
theorem bitDpX (d : Byte) : Statement (.bitDpX d) := fun m x => (show _ = opcodeLength m x 0x34 from rfl)
theorem andDpX (d : Byte) : Statement (.andDpX d) := fun m x => (show _ = opcodeLength m x 0x35 from rfl)
theorem rolDpX (d : Byte) : Statement (.rolDpX d) := fun m x => (show _ = opcodeLength m x 0x36 from rfl)
theorem andDpIndLongY (d : Byte) : Statement (.andDpIndLongY d) := fun m x => (show _ = opcodeLength m x 0x37 from rfl)
theorem sec : Statement .sec := fun m x => (show _ = opcodeLength m x 0x38 from rfl)
theorem andAbsY (a : Word) : Statement (.andAbsY a) := fun m x => (show _ = opcodeLength m x 0x39 from rfl)
theorem decAcc : Statement .decAcc := fun m x => (show _ = opcodeLength m x 0x3A from rfl)
theorem tsc : Statement .tsc := fun m x => (show _ = opcodeLength m x 0x3B from rfl)
theorem bitAbsX (a : Word) : Statement (.bitAbsX a) := fun m x => (show _ = opcodeLength m x 0x3C from rfl)
theorem andAbsX (a : Word) : Statement (.andAbsX a) := fun m x => (show _ = opcodeLength m x 0x3D from rfl)
theorem rolAbsX (a : Word) : Statement (.rolAbsX a) := fun m x => (show _ = opcodeLength m x 0x3E from rfl)
theorem andLongX (a : Addr) : Statement (.andLongX a) := fun m x => (show _ = opcodeLength m x 0x3F from rfl)
theorem rti : Statement .rti := fun m x => (show _ = opcodeLength m x 0x40 from rfl)
theorem eorDpIndX (d : Byte) : Statement (.eorDpIndX d) := fun m x => (show _ = opcodeLength m x 0x41 from rfl)
theorem wdm (sig : Byte) : Statement (.wdm sig) := fun m x => (show _ = opcodeLength m x 0x42 from rfl)
theorem eorSr (d : Byte) : Statement (.eorSr d) := fun m x => (show _ = opcodeLength m x 0x43 from rfl)
theorem mvp (dst : Byte) (src : Byte) : Statement (.mvp dst src) := fun m x => (show _ = opcodeLength m x 0x44 from rfl)
theorem eorDp (d : Byte) : Statement (.eorDp d) := fun m x => (show _ = opcodeLength m x 0x45 from rfl)
theorem lsrDp (d : Byte) : Statement (.lsrDp d) := fun m x => (show _ = opcodeLength m x 0x46 from rfl)
theorem eorDpIndLong (d : Byte) : Statement (.eorDpIndLong d) := fun m x => (show _ = opcodeLength m x 0x47 from rfl)
theorem pha : Statement .pha := fun m x => (show _ = opcodeLength m x 0x48 from rfl)
theorem eorImm (v : Word) : Statement (.eorImm v) := fun m x => (show _ = opcodeLength m x 0x49 by cases m <;> rfl)
theorem lsrAcc : Statement .lsrAcc := fun m x => (show _ = opcodeLength m x 0x4A from rfl)
theorem phk : Statement .phk := fun m x => (show _ = opcodeLength m x 0x4B from rfl)
theorem jmpAbs (a : Word) : Statement (.jmpAbs a) := fun m x => (show _ = opcodeLength m x 0x4C from rfl)
theorem eorAbs (a : Word) : Statement (.eorAbs a) := fun m x => (show _ = opcodeLength m x 0x4D from rfl)
theorem lsrAbs (a : Word) : Statement (.lsrAbs a) := fun m x => (show _ = opcodeLength m x 0x4E from rfl)
theorem eorLong (a : Addr) : Statement (.eorLong a) := fun m x => (show _ = opcodeLength m x 0x4F from rfl)
theorem bvc (disp : Byte) : Statement (.bvc disp) := fun m x => (show _ = opcodeLength m x 0x50 from rfl)
theorem eorDpIndY (d : Byte) : Statement (.eorDpIndY d) := fun m x => (show _ = opcodeLength m x 0x51 from rfl)
theorem eorDpInd (d : Byte) : Statement (.eorDpInd d) := fun m x => (show _ = opcodeLength m x 0x52 from rfl)
theorem eorSrIndY (d : Byte) : Statement (.eorSrIndY d) := fun m x => (show _ = opcodeLength m x 0x53 from rfl)
theorem mvn (dst : Byte) (src : Byte) : Statement (.mvn dst src) := fun m x => (show _ = opcodeLength m x 0x54 from rfl)
theorem eorDpX (d : Byte) : Statement (.eorDpX d) := fun m x => (show _ = opcodeLength m x 0x55 from rfl)
theorem lsrDpX (d : Byte) : Statement (.lsrDpX d) := fun m x => (show _ = opcodeLength m x 0x56 from rfl)
theorem eorDpIndLongY (d : Byte) : Statement (.eorDpIndLongY d) := fun m x => (show _ = opcodeLength m x 0x57 from rfl)
theorem cli : Statement .cli := fun m x => (show _ = opcodeLength m x 0x58 from rfl)
theorem eorAbsY (a : Word) : Statement (.eorAbsY a) := fun m x => (show _ = opcodeLength m x 0x59 from rfl)
theorem phy : Statement .phy := fun m x => (show _ = opcodeLength m x 0x5A from rfl)
theorem tcd : Statement .tcd := fun m x => (show _ = opcodeLength m x 0x5B from rfl)
theorem jmlLong (a : Addr) : Statement (.jmlLong a) := fun m x => (show _ = opcodeLength m x 0x5C from rfl)
theorem eorAbsX (a : Word) : Statement (.eorAbsX a) := fun m x => (show _ = opcodeLength m x 0x5D from rfl)
theorem lsrAbsX (a : Word) : Statement (.lsrAbsX a) := fun m x => (show _ = opcodeLength m x 0x5E from rfl)
theorem eorLongX (a : Addr) : Statement (.eorLongX a) := fun m x => (show _ = opcodeLength m x 0x5F from rfl)
theorem rts : Statement .rts := fun m x => (show _ = opcodeLength m x 0x60 from rfl)
theorem adcDpIndX (d : Byte) : Statement (.adcDpIndX d) := fun m x => (show _ = opcodeLength m x 0x61 from rfl)
theorem per (disp : Word) : Statement (.per disp) := fun m x => (show _ = opcodeLength m x 0x62 from rfl)
theorem adcSr (d : Byte) : Statement (.adcSr d) := fun m x => (show _ = opcodeLength m x 0x63 from rfl)
theorem stzDp (d : Byte) : Statement (.stzDp d) := fun m x => (show _ = opcodeLength m x 0x64 from rfl)
theorem adcDp (d : Byte) : Statement (.adcDp d) := fun m x => (show _ = opcodeLength m x 0x65 from rfl)
theorem rorDp (d : Byte) : Statement (.rorDp d) := fun m x => (show _ = opcodeLength m x 0x66 from rfl)
theorem adcDpIndLong (d : Byte) : Statement (.adcDpIndLong d) := fun m x => (show _ = opcodeLength m x 0x67 from rfl)
theorem pla : Statement .pla := fun m x => (show _ = opcodeLength m x 0x68 from rfl)
theorem adcImm (v : Word) : Statement (.adcImm v) := fun m x => (show _ = opcodeLength m x 0x69 by cases m <;> rfl)
theorem rorAcc : Statement .rorAcc := fun m x => (show _ = opcodeLength m x 0x6A from rfl)
theorem rtl : Statement .rtl := fun m x => (show _ = opcodeLength m x 0x6B from rfl)
theorem jmpAbsInd (a : Word) : Statement (.jmpAbsInd a) := fun m x => (show _ = opcodeLength m x 0x6C from rfl)
theorem adcAbs (a : Word) : Statement (.adcAbs a) := fun m x => (show _ = opcodeLength m x 0x6D from rfl)
theorem rorAbs (a : Word) : Statement (.rorAbs a) := fun m x => (show _ = opcodeLength m x 0x6E from rfl)
theorem adcLong (a : Addr) : Statement (.adcLong a) := fun m x => (show _ = opcodeLength m x 0x6F from rfl)
theorem bvs (disp : Byte) : Statement (.bvs disp) := fun m x => (show _ = opcodeLength m x 0x70 from rfl)
theorem adcDpIndY (d : Byte) : Statement (.adcDpIndY d) := fun m x => (show _ = opcodeLength m x 0x71 from rfl)
theorem adcDpInd (d : Byte) : Statement (.adcDpInd d) := fun m x => (show _ = opcodeLength m x 0x72 from rfl)
theorem adcSrIndY (d : Byte) : Statement (.adcSrIndY d) := fun m x => (show _ = opcodeLength m x 0x73 from rfl)
theorem stzDpX (d : Byte) : Statement (.stzDpX d) := fun m x => (show _ = opcodeLength m x 0x74 from rfl)
theorem adcDpX (d : Byte) : Statement (.adcDpX d) := fun m x => (show _ = opcodeLength m x 0x75 from rfl)
theorem rorDpX (d : Byte) : Statement (.rorDpX d) := fun m x => (show _ = opcodeLength m x 0x76 from rfl)
theorem adcDpIndLongY (d : Byte) : Statement (.adcDpIndLongY d) := fun m x => (show _ = opcodeLength m x 0x77 from rfl)
theorem sei : Statement .sei := fun m x => (show _ = opcodeLength m x 0x78 from rfl)
theorem adcAbsY (a : Word) : Statement (.adcAbsY a) := fun m x => (show _ = opcodeLength m x 0x79 from rfl)
theorem ply : Statement .ply := fun m x => (show _ = opcodeLength m x 0x7A from rfl)
theorem tdc : Statement .tdc := fun m x => (show _ = opcodeLength m x 0x7B from rfl)
theorem jmpAbsIndX (a : Word) : Statement (.jmpAbsIndX a) := fun m x => (show _ = opcodeLength m x 0x7C from rfl)
theorem adcAbsX (a : Word) : Statement (.adcAbsX a) := fun m x => (show _ = opcodeLength m x 0x7D from rfl)
theorem rorAbsX (a : Word) : Statement (.rorAbsX a) := fun m x => (show _ = opcodeLength m x 0x7E from rfl)
theorem adcLongX (a : Addr) : Statement (.adcLongX a) := fun m x => (show _ = opcodeLength m x 0x7F from rfl)
theorem bra (disp : Byte) : Statement (.bra disp) := fun m x => (show _ = opcodeLength m x 0x80 from rfl)
theorem staDpIndX (d : Byte) : Statement (.staDpIndX d) := fun m x => (show _ = opcodeLength m x 0x81 from rfl)
theorem brl (disp : Word) : Statement (.brl disp) := fun m x => (show _ = opcodeLength m x 0x82 from rfl)
theorem staSr (d : Byte) : Statement (.staSr d) := fun m x => (show _ = opcodeLength m x 0x83 from rfl)
theorem styDp (d : Byte) : Statement (.styDp d) := fun m x => (show _ = opcodeLength m x 0x84 from rfl)
theorem staDp (d : Byte) : Statement (.staDp d) := fun m x => (show _ = opcodeLength m x 0x85 from rfl)
theorem stxDp (d : Byte) : Statement (.stxDp d) := fun m x => (show _ = opcodeLength m x 0x86 from rfl)
theorem staDpIndLong (d : Byte) : Statement (.staDpIndLong d) := fun m x => (show _ = opcodeLength m x 0x87 from rfl)
theorem dey : Statement .dey := fun m x => (show _ = opcodeLength m x 0x88 from rfl)
theorem bitImm (v : Word) : Statement (.bitImm v) := fun m x => (show _ = opcodeLength m x 0x89 by cases m <;> rfl)
theorem txa : Statement .txa := fun m x => (show _ = opcodeLength m x 0x8A from rfl)
theorem phb : Statement .phb := fun m x => (show _ = opcodeLength m x 0x8B from rfl)
theorem styAbs (a : Word) : Statement (.styAbs a) := fun m x => (show _ = opcodeLength m x 0x8C from rfl)
theorem staAbs (a : Word) : Statement (.staAbs a) := fun m x => (show _ = opcodeLength m x 0x8D from rfl)
theorem stxAbs (a : Word) : Statement (.stxAbs a) := fun m x => (show _ = opcodeLength m x 0x8E from rfl)
theorem staLong (a : Addr) : Statement (.staLong a) := fun m x => (show _ = opcodeLength m x 0x8F from rfl)
theorem bcc (disp : Byte) : Statement (.bcc disp) := fun m x => (show _ = opcodeLength m x 0x90 from rfl)
theorem staDpIndY (d : Byte) : Statement (.staDpIndY d) := fun m x => (show _ = opcodeLength m x 0x91 from rfl)
theorem staDpInd (d : Byte) : Statement (.staDpInd d) := fun m x => (show _ = opcodeLength m x 0x92 from rfl)
theorem staSrIndY (d : Byte) : Statement (.staSrIndY d) := fun m x => (show _ = opcodeLength m x 0x93 from rfl)
theorem styDpX (d : Byte) : Statement (.styDpX d) := fun m x => (show _ = opcodeLength m x 0x94 from rfl)
theorem staDpX (d : Byte) : Statement (.staDpX d) := fun m x => (show _ = opcodeLength m x 0x95 from rfl)
theorem stxDpY (d : Byte) : Statement (.stxDpY d) := fun m x => (show _ = opcodeLength m x 0x96 from rfl)
theorem staDpIndLongY (d : Byte) : Statement (.staDpIndLongY d) := fun m x => (show _ = opcodeLength m x 0x97 from rfl)
theorem tya : Statement .tya := fun m x => (show _ = opcodeLength m x 0x98 from rfl)
theorem staAbsY (a : Word) : Statement (.staAbsY a) := fun m x => (show _ = opcodeLength m x 0x99 from rfl)
theorem txs : Statement .txs := fun m x => (show _ = opcodeLength m x 0x9A from rfl)
theorem txy : Statement .txy := fun m x => (show _ = opcodeLength m x 0x9B from rfl)
theorem stzAbs (a : Word) : Statement (.stzAbs a) := fun m x => (show _ = opcodeLength m x 0x9C from rfl)
theorem staAbsX (a : Word) : Statement (.staAbsX a) := fun m x => (show _ = opcodeLength m x 0x9D from rfl)
theorem stzAbsX (a : Word) : Statement (.stzAbsX a) := fun m x => (show _ = opcodeLength m x 0x9E from rfl)
theorem staLongX (a : Addr) : Statement (.staLongX a) := fun m x => (show _ = opcodeLength m x 0x9F from rfl)
theorem ldyImm (v : Word) : Statement (.ldyImm v) := fun m x => (show _ = opcodeLength m x 0xA0 by cases x <;> rfl)
theorem ldaDpIndX (d : Byte) : Statement (.ldaDpIndX d) := fun m x => (show _ = opcodeLength m x 0xA1 from rfl)
theorem ldxImm (v : Word) : Statement (.ldxImm v) := fun m x => (show _ = opcodeLength m x 0xA2 by cases x <;> rfl)
theorem ldaSr (d : Byte) : Statement (.ldaSr d) := fun m x => (show _ = opcodeLength m x 0xA3 from rfl)
theorem ldyDp (d : Byte) : Statement (.ldyDp d) := fun m x => (show _ = opcodeLength m x 0xA4 from rfl)
theorem ldaDp (d : Byte) : Statement (.ldaDp d) := fun m x => (show _ = opcodeLength m x 0xA5 from rfl)
theorem ldxDp (d : Byte) : Statement (.ldxDp d) := fun m x => (show _ = opcodeLength m x 0xA6 from rfl)
theorem ldaDpIndLong (d : Byte) : Statement (.ldaDpIndLong d) := fun m x => (show _ = opcodeLength m x 0xA7 from rfl)
theorem tay : Statement .tay := fun m x => (show _ = opcodeLength m x 0xA8 from rfl)
theorem ldaImm (v : Word) : Statement (.ldaImm v) := fun m x => (show _ = opcodeLength m x 0xA9 by cases m <;> rfl)
theorem tax : Statement .tax := fun m x => (show _ = opcodeLength m x 0xAA from rfl)
theorem plb : Statement .plb := fun m x => (show _ = opcodeLength m x 0xAB from rfl)
theorem ldyAbs (a : Word) : Statement (.ldyAbs a) := fun m x => (show _ = opcodeLength m x 0xAC from rfl)
theorem ldaAbs (a : Word) : Statement (.ldaAbs a) := fun m x => (show _ = opcodeLength m x 0xAD from rfl)
theorem ldxAbs (a : Word) : Statement (.ldxAbs a) := fun m x => (show _ = opcodeLength m x 0xAE from rfl)
theorem ldaLong (a : Addr) : Statement (.ldaLong a) := fun m x => (show _ = opcodeLength m x 0xAF from rfl)
theorem bcs (disp : Byte) : Statement (.bcs disp) := fun m x => (show _ = opcodeLength m x 0xB0 from rfl)
theorem ldaDpIndY (d : Byte) : Statement (.ldaDpIndY d) := fun m x => (show _ = opcodeLength m x 0xB1 from rfl)
theorem ldaDpInd (d : Byte) : Statement (.ldaDpInd d) := fun m x => (show _ = opcodeLength m x 0xB2 from rfl)
theorem ldaSrIndY (d : Byte) : Statement (.ldaSrIndY d) := fun m x => (show _ = opcodeLength m x 0xB3 from rfl)
theorem ldyDpX (d : Byte) : Statement (.ldyDpX d) := fun m x => (show _ = opcodeLength m x 0xB4 from rfl)
theorem ldaDpX (d : Byte) : Statement (.ldaDpX d) := fun m x => (show _ = opcodeLength m x 0xB5 from rfl)
theorem ldxDpY (d : Byte) : Statement (.ldxDpY d) := fun m x => (show _ = opcodeLength m x 0xB6 from rfl)
theorem ldaDpIndLongY (d : Byte) : Statement (.ldaDpIndLongY d) := fun m x => (show _ = opcodeLength m x 0xB7 from rfl)
theorem clv : Statement .clv := fun m x => (show _ = opcodeLength m x 0xB8 from rfl)
theorem ldaAbsY (a : Word) : Statement (.ldaAbsY a) := fun m x => (show _ = opcodeLength m x 0xB9 from rfl)
theorem tsx : Statement .tsx := fun m x => (show _ = opcodeLength m x 0xBA from rfl)
theorem tyx : Statement .tyx := fun m x => (show _ = opcodeLength m x 0xBB from rfl)
theorem ldyAbsX (a : Word) : Statement (.ldyAbsX a) := fun m x => (show _ = opcodeLength m x 0xBC from rfl)
theorem ldaAbsX (a : Word) : Statement (.ldaAbsX a) := fun m x => (show _ = opcodeLength m x 0xBD from rfl)
theorem ldxAbsY (a : Word) : Statement (.ldxAbsY a) := fun m x => (show _ = opcodeLength m x 0xBE from rfl)
theorem ldaLongX (a : Addr) : Statement (.ldaLongX a) := fun m x => (show _ = opcodeLength m x 0xBF from rfl)
theorem cpyImm (v : Word) : Statement (.cpyImm v) := fun m x => (show _ = opcodeLength m x 0xC0 by cases x <;> rfl)
theorem cmpDpIndX (d : Byte) : Statement (.cmpDpIndX d) := fun m x => (show _ = opcodeLength m x 0xC1 from rfl)
theorem rep (mask : Byte) : Statement (.rep mask) := fun m x => (show _ = opcodeLength m x 0xC2 from rfl)
theorem cmpSr (d : Byte) : Statement (.cmpSr d) := fun m x => (show _ = opcodeLength m x 0xC3 from rfl)
theorem cpyDp (d : Byte) : Statement (.cpyDp d) := fun m x => (show _ = opcodeLength m x 0xC4 from rfl)
theorem cmpDp (d : Byte) : Statement (.cmpDp d) := fun m x => (show _ = opcodeLength m x 0xC5 from rfl)
theorem decDp (d : Byte) : Statement (.decDp d) := fun m x => (show _ = opcodeLength m x 0xC6 from rfl)
theorem cmpDpIndLong (d : Byte) : Statement (.cmpDpIndLong d) := fun m x => (show _ = opcodeLength m x 0xC7 from rfl)
theorem iny : Statement .iny := fun m x => (show _ = opcodeLength m x 0xC8 from rfl)
theorem cmpImm (v : Word) : Statement (.cmpImm v) := fun m x => (show _ = opcodeLength m x 0xC9 by cases m <;> rfl)
theorem dex : Statement .dex := fun m x => (show _ = opcodeLength m x 0xCA from rfl)
theorem wai : Statement .wai := fun m x => (show _ = opcodeLength m x 0xCB from rfl)
theorem cpyAbs (a : Word) : Statement (.cpyAbs a) := fun m x => (show _ = opcodeLength m x 0xCC from rfl)
theorem cmpAbs (a : Word) : Statement (.cmpAbs a) := fun m x => (show _ = opcodeLength m x 0xCD from rfl)
theorem decAbs (a : Word) : Statement (.decAbs a) := fun m x => (show _ = opcodeLength m x 0xCE from rfl)
theorem cmpLong (a : Addr) : Statement (.cmpLong a) := fun m x => (show _ = opcodeLength m x 0xCF from rfl)
theorem bne (disp : Byte) : Statement (.bne disp) := fun m x => (show _ = opcodeLength m x 0xD0 from rfl)
theorem cmpDpIndY (d : Byte) : Statement (.cmpDpIndY d) := fun m x => (show _ = opcodeLength m x 0xD1 from rfl)
theorem cmpDpInd (d : Byte) : Statement (.cmpDpInd d) := fun m x => (show _ = opcodeLength m x 0xD2 from rfl)
theorem cmpSrIndY (d : Byte) : Statement (.cmpSrIndY d) := fun m x => (show _ = opcodeLength m x 0xD3 from rfl)
theorem pei (d : Byte) : Statement (.pei d) := fun m x => (show _ = opcodeLength m x 0xD4 from rfl)
theorem cmpDpX (d : Byte) : Statement (.cmpDpX d) := fun m x => (show _ = opcodeLength m x 0xD5 from rfl)
theorem decDpX (d : Byte) : Statement (.decDpX d) := fun m x => (show _ = opcodeLength m x 0xD6 from rfl)
theorem cmpDpIndLongY (d : Byte) : Statement (.cmpDpIndLongY d) := fun m x => (show _ = opcodeLength m x 0xD7 from rfl)
theorem cld : Statement .cld := fun m x => (show _ = opcodeLength m x 0xD8 from rfl)
theorem cmpAbsY (a : Word) : Statement (.cmpAbsY a) := fun m x => (show _ = opcodeLength m x 0xD9 from rfl)
theorem phx : Statement .phx := fun m x => (show _ = opcodeLength m x 0xDA from rfl)
theorem stp : Statement .stp := fun m x => (show _ = opcodeLength m x 0xDB from rfl)
theorem jmlAbsIndLong (a : Word) : Statement (.jmlAbsIndLong a) := fun m x => (show _ = opcodeLength m x 0xDC from rfl)
theorem cmpAbsX (a : Word) : Statement (.cmpAbsX a) := fun m x => (show _ = opcodeLength m x 0xDD from rfl)
theorem decAbsX (a : Word) : Statement (.decAbsX a) := fun m x => (show _ = opcodeLength m x 0xDE from rfl)
theorem cmpLongX (a : Addr) : Statement (.cmpLongX a) := fun m x => (show _ = opcodeLength m x 0xDF from rfl)
theorem cpxImm (v : Word) : Statement (.cpxImm v) := fun m x => (show _ = opcodeLength m x 0xE0 by cases x <;> rfl)
theorem sbcDpIndX (d : Byte) : Statement (.sbcDpIndX d) := fun m x => (show _ = opcodeLength m x 0xE1 from rfl)
theorem sep (mask : Byte) : Statement (.sep mask) := fun m x => (show _ = opcodeLength m x 0xE2 from rfl)
theorem sbcSr (d : Byte) : Statement (.sbcSr d) := fun m x => (show _ = opcodeLength m x 0xE3 from rfl)
theorem cpxDp (d : Byte) : Statement (.cpxDp d) := fun m x => (show _ = opcodeLength m x 0xE4 from rfl)
theorem sbcDp (d : Byte) : Statement (.sbcDp d) := fun m x => (show _ = opcodeLength m x 0xE5 from rfl)
theorem incDp (d : Byte) : Statement (.incDp d) := fun m x => (show _ = opcodeLength m x 0xE6 from rfl)
theorem sbcDpIndLong (d : Byte) : Statement (.sbcDpIndLong d) := fun m x => (show _ = opcodeLength m x 0xE7 from rfl)
theorem inx : Statement .inx := fun m x => (show _ = opcodeLength m x 0xE8 from rfl)
theorem sbcImm (v : Word) : Statement (.sbcImm v) := fun m x => (show _ = opcodeLength m x 0xE9 by cases m <;> rfl)
theorem nop : Statement .nop := fun m x => (show _ = opcodeLength m x 0xEA from rfl)
theorem xba : Statement .xba := fun m x => (show _ = opcodeLength m x 0xEB from rfl)
theorem cpxAbs (a : Word) : Statement (.cpxAbs a) := fun m x => (show _ = opcodeLength m x 0xEC from rfl)
theorem sbcAbs (a : Word) : Statement (.sbcAbs a) := fun m x => (show _ = opcodeLength m x 0xED from rfl)
theorem incAbs (a : Word) : Statement (.incAbs a) := fun m x => (show _ = opcodeLength m x 0xEE from rfl)
theorem sbcLong (a : Addr) : Statement (.sbcLong a) := fun m x => (show _ = opcodeLength m x 0xEF from rfl)
theorem beq (disp : Byte) : Statement (.beq disp) := fun m x => (show _ = opcodeLength m x 0xF0 from rfl)
theorem sbcDpIndY (d : Byte) : Statement (.sbcDpIndY d) := fun m x => (show _ = opcodeLength m x 0xF1 from rfl)
theorem sbcDpInd (d : Byte) : Statement (.sbcDpInd d) := fun m x => (show _ = opcodeLength m x 0xF2 from rfl)
theorem sbcSrIndY (d : Byte) : Statement (.sbcSrIndY d) := fun m x => (show _ = opcodeLength m x 0xF3 from rfl)
theorem pea (v : Word) : Statement (.pea v) := fun m x => (show _ = opcodeLength m x 0xF4 from rfl)
theorem sbcDpX (d : Byte) : Statement (.sbcDpX d) := fun m x => (show _ = opcodeLength m x 0xF5 from rfl)
theorem incDpX (d : Byte) : Statement (.incDpX d) := fun m x => (show _ = opcodeLength m x 0xF6 from rfl)
theorem sbcDpIndLongY (d : Byte) : Statement (.sbcDpIndLongY d) := fun m x => (show _ = opcodeLength m x 0xF7 from rfl)
theorem sed : Statement .sed := fun m x => (show _ = opcodeLength m x 0xF8 from rfl)
theorem sbcAbsY (a : Word) : Statement (.sbcAbsY a) := fun m x => (show _ = opcodeLength m x 0xF9 from rfl)
theorem plx : Statement .plx := fun m x => (show _ = opcodeLength m x 0xFA from rfl)
theorem xce : Statement .xce := fun m x => (show _ = opcodeLength m x 0xFB from rfl)
theorem jsrAbsIndX (a : Word) : Statement (.jsrAbsIndX a) := fun m x => (show _ = opcodeLength m x 0xFC from rfl)
theorem sbcAbsX (a : Word) : Statement (.sbcAbsX a) := fun m x => (show _ = opcodeLength m x 0xFD from rfl)
theorem incAbsX (a : Word) : Statement (.incAbsX a) := fun m x => (show _ = opcodeLength m x 0xFE from rfl)
theorem sbcLongX (a : Addr) : Statement (.sbcLongX a) := fun m x => (show _ = opcodeLength m x 0xFF from rfl)

end Sys2Proof.Laws.EncodeLength
end

