-- ==== Sys2Proof/Tests/Slice0.lean ====
section
/-! SUPPORT. The model's own tests: ill-formed terms, the word of every opcode, single steps from the vectors of spec/96, and for
every statement with hypotheses a state and operands that meet them. -/

namespace Sys2Proof.Tests

open Sys2Proof.Machine

/-- The instruction of a word, when the word is exactly one instruction long. -/
def decodeOne (m x : Bool) (bytes : List Byte) : Option Instr :=
  match decode m x bytes with
  | .ok (i, []) => some i
  | .ok (_, _ :: _) => none
  | .error _ => none

/-- The instructions of a list of words; a word that is not one instruction is left out. -/
def decodeEach (m x : Bool) (words : List (List Byte)) : List Instr := words.filterMap (decodeOne m x)

/-! ### Ill-formed terms -/

/-- One check for each of the twelve immediates (R105, R115): a value of two bytes is refused where the flag makes the operand one
byte, and accepted where it does not; 255 is accepted in both. -/
theorem test_wf_immediates : ∀ m x : Bool,
    (Instr.oraImm 0x0100).wf m x = !m ∧ (Instr.andImm 0x0100).wf m x = !m ∧ (Instr.eorImm 0x0100).wf m x = !m ∧
    (Instr.adcImm 0x0100).wf m x = !m ∧ (Instr.bitImm 0x0100).wf m x = !m ∧ (Instr.ldaImm 0x0100).wf m x = !m ∧
    (Instr.cmpImm 0x0100).wf m x = !m ∧ (Instr.sbcImm 0x0100).wf m x = !m ∧ (Instr.ldyImm 0x0100).wf m x = !x ∧
    (Instr.ldxImm 0x0100).wf m x = !x ∧ (Instr.cpyImm 0x0100).wf m x = !x ∧ (Instr.cpxImm 0x0100).wf m x = !x ∧
    (Instr.ldaImm 0x00FF).wf m x = true ∧ (Instr.ldxImm 0x00FF).wf m x = true := by decide

/-- Every other operand byte is legal (R119). -/
theorem test_wf_other : (Instr.ldaLong 0xFFFFFF).wf true true = true ∧ (Instr.rep 0xFF).wf true true = true := by decide

/-- R116: no opcode is refused; what is refused is a sequence too short to hold the instruction. -/
theorem test_decode_refuses : decode true true [] = .error .noByte ∧ decode false true [0xA9, 0x12] = .error (.truncated 0xA9) := by
  decide

/-! ### Decoding: a word for every opcode, written from the map of R113 and the layouts of R102 to R112 -/

theorem test_decode_row0 : decodeEach true true [
      [0x00, 0x12], [0x01, 0x12], [0x02, 0x12], [0x03, 0x12], [0x04, 0x12], [0x05, 0x12], [0x06, 0x12], [0x07, 0x12], [0x08],
      [0x09, 0x12], [0x0A], [0x0B], [0x0C, 0x34, 0x12], [0x0D, 0x34, 0x12], [0x0E, 0x34, 0x12], [0x0F, 0x56, 0x34, 0x12]] = [
      .brk 0x12, .oraDpIndX 0x12, .cop 0x12, .oraSr 0x12, .tsbDp 0x12, .oraDp 0x12, .aslDp 0x12, .oraDpIndLong 0x12, .php,
      .oraImm 0x12, .aslAcc, .phd, .tsbAbs 0x1234, .oraAbs 0x1234, .aslAbs 0x1234, .oraLong 0x123456] := by decide

theorem test_decode_row1 : decodeEach true true [
      [0x10, 0x12], [0x11, 0x12], [0x12, 0x12], [0x13, 0x12], [0x14, 0x12], [0x15, 0x12], [0x16, 0x12], [0x17, 0x12], [0x18],
      [0x19, 0x34, 0x12], [0x1A], [0x1B], [0x1C, 0x34, 0x12], [0x1D, 0x34, 0x12], [0x1E, 0x34, 0x12], [0x1F, 0x56, 0x34, 0x12]] = [
      .bpl 0x12, .oraDpIndY 0x12, .oraDpInd 0x12, .oraSrIndY 0x12, .trbDp 0x12, .oraDpX 0x12, .aslDpX 0x12, .oraDpIndLongY 0x12,
      .clc, .oraAbsY 0x1234, .incAcc, .tcs, .trbAbs 0x1234, .oraAbsX 0x1234, .aslAbsX 0x1234, .oraLongX 0x123456] := by decide

theorem test_decode_row2 : decodeEach true true [
      [0x20, 0x34, 0x12], [0x21, 0x12], [0x22, 0x56, 0x34, 0x12], [0x23, 0x12], [0x24, 0x12], [0x25, 0x12], [0x26, 0x12],
      [0x27, 0x12], [0x28], [0x29, 0x12], [0x2A], [0x2B], [0x2C, 0x34, 0x12], [0x2D, 0x34, 0x12], [0x2E, 0x34, 0x12],
      [0x2F, 0x56, 0x34, 0x12]] = [
      .jsrAbs 0x1234, .andDpIndX 0x12, .jsl 0x123456, .andSr 0x12, .bitDp 0x12, .andDp 0x12, .rolDp 0x12, .andDpIndLong 0x12,
      .plp, .andImm 0x12, .rolAcc, .pld, .bitAbs 0x1234, .andAbs 0x1234, .rolAbs 0x1234, .andLong 0x123456] := by decide

theorem test_decode_row3 : decodeEach true true [
      [0x30, 0x12], [0x31, 0x12], [0x32, 0x12], [0x33, 0x12], [0x34, 0x12], [0x35, 0x12], [0x36, 0x12], [0x37, 0x12], [0x38],
      [0x39, 0x34, 0x12], [0x3A], [0x3B], [0x3C, 0x34, 0x12], [0x3D, 0x34, 0x12], [0x3E, 0x34, 0x12], [0x3F, 0x56, 0x34, 0x12]] = [
      .bmi 0x12, .andDpIndY 0x12, .andDpInd 0x12, .andSrIndY 0x12, .bitDpX 0x12, .andDpX 0x12, .rolDpX 0x12, .andDpIndLongY 0x12,
      .sec, .andAbsY 0x1234, .decAcc, .tsc, .bitAbsX 0x1234, .andAbsX 0x1234, .rolAbsX 0x1234, .andLongX 0x123456] := by decide

theorem test_decode_row4 : decodeEach true true [
      [0x40], [0x41, 0x12], [0x42, 0x12], [0x43, 0x12], [0x44, 0x7F, 0x7E], [0x45, 0x12], [0x46, 0x12], [0x47, 0x12], [0x48],
      [0x49, 0x12], [0x4A], [0x4B], [0x4C, 0x34, 0x12], [0x4D, 0x34, 0x12], [0x4E, 0x34, 0x12], [0x4F, 0x56, 0x34, 0x12]] = [
      .rti, .eorDpIndX 0x12, .wdm 0x12, .eorSr 0x12, .mvp 0x7F 0x7E, .eorDp 0x12, .lsrDp 0x12, .eorDpIndLong 0x12, .pha,
      .eorImm 0x12, .lsrAcc, .phk, .jmpAbs 0x1234, .eorAbs 0x1234, .lsrAbs 0x1234, .eorLong 0x123456] := by decide

theorem test_decode_row5 : decodeEach true true [
      [0x50, 0x12], [0x51, 0x12], [0x52, 0x12], [0x53, 0x12], [0x54, 0x7F, 0x7E], [0x55, 0x12], [0x56, 0x12], [0x57, 0x12],
      [0x58], [0x59, 0x34, 0x12], [0x5A], [0x5B], [0x5C, 0x56, 0x34, 0x12], [0x5D, 0x34, 0x12], [0x5E, 0x34, 0x12],
      [0x5F, 0x56, 0x34, 0x12]] = [
      .bvc 0x12, .eorDpIndY 0x12, .eorDpInd 0x12, .eorSrIndY 0x12, .mvn 0x7F 0x7E, .eorDpX 0x12, .lsrDpX 0x12,
      .eorDpIndLongY 0x12, .cli, .eorAbsY 0x1234, .phy, .tcd, .jmlLong 0x123456, .eorAbsX 0x1234, .lsrAbsX 0x1234,
      .eorLongX 0x123456] := by decide

theorem test_decode_row6 : decodeEach true true [
      [0x60], [0x61, 0x12], [0x62, 0x34, 0x12], [0x63, 0x12], [0x64, 0x12], [0x65, 0x12], [0x66, 0x12], [0x67, 0x12], [0x68],
      [0x69, 0x12], [0x6A], [0x6B], [0x6C, 0x34, 0x12], [0x6D, 0x34, 0x12], [0x6E, 0x34, 0x12], [0x6F, 0x56, 0x34, 0x12]] = [
      .rts, .adcDpIndX 0x12, .per 0x1234, .adcSr 0x12, .stzDp 0x12, .adcDp 0x12, .rorDp 0x12, .adcDpIndLong 0x12, .pla,
      .adcImm 0x12, .rorAcc, .rtl, .jmpAbsInd 0x1234, .adcAbs 0x1234, .rorAbs 0x1234, .adcLong 0x123456] := by decide

theorem test_decode_row7 : decodeEach true true [
      [0x70, 0x12], [0x71, 0x12], [0x72, 0x12], [0x73, 0x12], [0x74, 0x12], [0x75, 0x12], [0x76, 0x12], [0x77, 0x12], [0x78],
      [0x79, 0x34, 0x12], [0x7A], [0x7B], [0x7C, 0x34, 0x12], [0x7D, 0x34, 0x12], [0x7E, 0x34, 0x12], [0x7F, 0x56, 0x34, 0x12]] = [
      .bvs 0x12, .adcDpIndY 0x12, .adcDpInd 0x12, .adcSrIndY 0x12, .stzDpX 0x12, .adcDpX 0x12, .rorDpX 0x12, .adcDpIndLongY 0x12,
      .sei, .adcAbsY 0x1234, .ply, .tdc, .jmpAbsIndX 0x1234, .adcAbsX 0x1234, .rorAbsX 0x1234, .adcLongX 0x123456] := by decide

theorem test_decode_row8 : decodeEach true true [
      [0x80, 0x12], [0x81, 0x12], [0x82, 0x34, 0x12], [0x83, 0x12], [0x84, 0x12], [0x85, 0x12], [0x86, 0x12], [0x87, 0x12],
      [0x88], [0x89, 0x12], [0x8A], [0x8B], [0x8C, 0x34, 0x12], [0x8D, 0x34, 0x12], [0x8E, 0x34, 0x12], [0x8F, 0x56, 0x34, 0x12]] = [
      .bra 0x12, .staDpIndX 0x12, .brl 0x1234, .staSr 0x12, .styDp 0x12, .staDp 0x12, .stxDp 0x12, .staDpIndLong 0x12, .dey,
      .bitImm 0x12, .txa, .phb, .styAbs 0x1234, .staAbs 0x1234, .stxAbs 0x1234, .staLong 0x123456] := by decide

theorem test_decode_row9 : decodeEach true true [
      [0x90, 0x12], [0x91, 0x12], [0x92, 0x12], [0x93, 0x12], [0x94, 0x12], [0x95, 0x12], [0x96, 0x12], [0x97, 0x12], [0x98],
      [0x99, 0x34, 0x12], [0x9A], [0x9B], [0x9C, 0x34, 0x12], [0x9D, 0x34, 0x12], [0x9E, 0x34, 0x12], [0x9F, 0x56, 0x34, 0x12]] = [
      .bcc 0x12, .staDpIndY 0x12, .staDpInd 0x12, .staSrIndY 0x12, .styDpX 0x12, .staDpX 0x12, .stxDpY 0x12, .staDpIndLongY 0x12,
      .tya, .staAbsY 0x1234, .txs, .txy, .stzAbs 0x1234, .staAbsX 0x1234, .stzAbsX 0x1234, .staLongX 0x123456] := by decide

theorem test_decode_rowA : decodeEach true true [
      [0xA0, 0x12], [0xA1, 0x12], [0xA2, 0x12], [0xA3, 0x12], [0xA4, 0x12], [0xA5, 0x12], [0xA6, 0x12], [0xA7, 0x12], [0xA8],
      [0xA9, 0x12], [0xAA], [0xAB], [0xAC, 0x34, 0x12], [0xAD, 0x34, 0x12], [0xAE, 0x34, 0x12], [0xAF, 0x56, 0x34, 0x12]] = [
      .ldyImm 0x12, .ldaDpIndX 0x12, .ldxImm 0x12, .ldaSr 0x12, .ldyDp 0x12, .ldaDp 0x12, .ldxDp 0x12, .ldaDpIndLong 0x12, .tay,
      .ldaImm 0x12, .tax, .plb, .ldyAbs 0x1234, .ldaAbs 0x1234, .ldxAbs 0x1234, .ldaLong 0x123456] := by decide

theorem test_decode_rowB : decodeEach true true [
      [0xB0, 0x12], [0xB1, 0x12], [0xB2, 0x12], [0xB3, 0x12], [0xB4, 0x12], [0xB5, 0x12], [0xB6, 0x12], [0xB7, 0x12], [0xB8],
      [0xB9, 0x34, 0x12], [0xBA], [0xBB], [0xBC, 0x34, 0x12], [0xBD, 0x34, 0x12], [0xBE, 0x34, 0x12], [0xBF, 0x56, 0x34, 0x12]] = [
      .bcs 0x12, .ldaDpIndY 0x12, .ldaDpInd 0x12, .ldaSrIndY 0x12, .ldyDpX 0x12, .ldaDpX 0x12, .ldxDpY 0x12, .ldaDpIndLongY 0x12,
      .clv, .ldaAbsY 0x1234, .tsx, .tyx, .ldyAbsX 0x1234, .ldaAbsX 0x1234, .ldxAbsY 0x1234, .ldaLongX 0x123456] := by decide

theorem test_decode_rowC : decodeEach true true [
      [0xC0, 0x12], [0xC1, 0x12], [0xC2, 0x12], [0xC3, 0x12], [0xC4, 0x12], [0xC5, 0x12], [0xC6, 0x12], [0xC7, 0x12], [0xC8],
      [0xC9, 0x12], [0xCA], [0xCB], [0xCC, 0x34, 0x12], [0xCD, 0x34, 0x12], [0xCE, 0x34, 0x12], [0xCF, 0x56, 0x34, 0x12]] = [
      .cpyImm 0x12, .cmpDpIndX 0x12, .rep 0x12, .cmpSr 0x12, .cpyDp 0x12, .cmpDp 0x12, .decDp 0x12, .cmpDpIndLong 0x12, .iny,
      .cmpImm 0x12, .dex, .wai, .cpyAbs 0x1234, .cmpAbs 0x1234, .decAbs 0x1234, .cmpLong 0x123456] := by decide

theorem test_decode_rowD : decodeEach true true [
      [0xD0, 0x12], [0xD1, 0x12], [0xD2, 0x12], [0xD3, 0x12], [0xD4, 0x12], [0xD5, 0x12], [0xD6, 0x12], [0xD7, 0x12], [0xD8],
      [0xD9, 0x34, 0x12], [0xDA], [0xDB], [0xDC, 0x34, 0x12], [0xDD, 0x34, 0x12], [0xDE, 0x34, 0x12], [0xDF, 0x56, 0x34, 0x12]] = [
      .bne 0x12, .cmpDpIndY 0x12, .cmpDpInd 0x12, .cmpSrIndY 0x12, .pei 0x12, .cmpDpX 0x12, .decDpX 0x12, .cmpDpIndLongY 0x12,
      .cld, .cmpAbsY 0x1234, .phx, .stp, .jmlAbsIndLong 0x1234, .cmpAbsX 0x1234, .decAbsX 0x1234, .cmpLongX 0x123456] := by decide

theorem test_decode_rowE : decodeEach true true [
      [0xE0, 0x12], [0xE1, 0x12], [0xE2, 0x12], [0xE3, 0x12], [0xE4, 0x12], [0xE5, 0x12], [0xE6, 0x12], [0xE7, 0x12], [0xE8],
      [0xE9, 0x12], [0xEA], [0xEB], [0xEC, 0x34, 0x12], [0xED, 0x34, 0x12], [0xEE, 0x34, 0x12], [0xEF, 0x56, 0x34, 0x12]] = [
      .cpxImm 0x12, .sbcDpIndX 0x12, .sep 0x12, .sbcSr 0x12, .cpxDp 0x12, .sbcDp 0x12, .incDp 0x12, .sbcDpIndLong 0x12, .inx,
      .sbcImm 0x12, .nop, .xba, .cpxAbs 0x1234, .sbcAbs 0x1234, .incAbs 0x1234, .sbcLong 0x123456] := by decide

theorem test_decode_rowF : decodeEach true true [
      [0xF0, 0x12], [0xF1, 0x12], [0xF2, 0x12], [0xF3, 0x12], [0xF4, 0x34, 0x12], [0xF5, 0x12], [0xF6, 0x12], [0xF7, 0x12],
      [0xF8], [0xF9, 0x34, 0x12], [0xFA], [0xFB], [0xFC, 0x34, 0x12], [0xFD, 0x34, 0x12], [0xFE, 0x34, 0x12],
      [0xFF, 0x56, 0x34, 0x12]] = [
      .beq 0x12, .sbcDpIndY 0x12, .sbcDpInd 0x12, .sbcSrIndY 0x12, .pea 0x1234, .sbcDpX 0x12, .incDpX 0x12, .sbcDpIndLongY 0x12,
      .sed, .sbcAbsY 0x1234, .plx, .xce, .jsrAbsIndX 0x1234, .sbcAbsX 0x1234, .incAbsX 0x1234, .sbcLongX 0x123456] := by decide

/-- R105: the twelve immediates at 16 bits. -/
theorem test_decode_immediates16 : decodeEach false false [
      [0x09, 0x34, 0x12], [0x29, 0x34, 0x12], [0x49, 0x34, 0x12], [0x69, 0x34, 0x12], [0x89, 0x34, 0x12], [0xA0, 0x34, 0x12],
      [0xA2, 0x34, 0x12], [0xA9, 0x34, 0x12], [0xC0, 0x34, 0x12], [0xC9, 0x34, 0x12], [0xE0, 0x34, 0x12], [0xE9, 0x34, 0x12]] = [
      .oraImm 0x1234, .andImm 0x1234, .eorImm 0x1234, .adcImm 0x1234, .bitImm 0x1234, .ldyImm 0x1234, .ldxImm 0x1234,
      .ldaImm 0x1234, .cpyImm 0x1234, .cmpImm 0x1234, .cpxImm 0x1234, .sbcImm 0x1234] := by decide

/-! ### Steps, from the vectors of spec/96 -/

/-- The default start of spec/96. -/
def start : State := { State.reset with e := false, p := 0, sp := 0x1FFF, pc := 0x8000 }

/-- Bytes placed in memory from an address on. -/
def fill (a : Addr) (bytes : List Byte) (s : State) : State :=
  match bytes with
  | [] => s
  | b :: rest => fill (a + 1) rest (s.setSys (s.sys.poke a b))

/-- Memory holds these bytes from an address on. -/
def shows (t : State) (a : Addr) (bytes : List Byte) : Bool :=
  match bytes with
  | [] => true
  | b :: rest => t.sys.peek a == some b && shows t (a + 1) rest

/-- The step of a state with an instruction placed at its `PC` answers a next state that passes. -/
def runs (s : State) (bytes : List Byte) (ok : State → Bool) : Bool :=
  match step (s.placeBytes 0 bytes) with
  | .next t => ok t
  | .fault _ => false
  | .refused _ => false

/-- V1.2 of spec/96: `LDA #$34`. -/
theorem test_V1_2_ldaImm :
    runs (start |>.setP 0x20 |>.setC 0xFF00) [0xA9, 0x34]
      (fun t => t.c == 0xFF34 && t.pc == 0x8002 && t.p == 0x20) = true := by decide

/-- V1.3 of spec/96: `LDX #$1FFF`. -/
theorem test_V1_3_ldxImm :
    runs start [0xA2, 0xFF, 0x1F]
      (fun t => t.x == 0x1FFF && t.pc == 0x8003 && t.p == 0x00) = true := by decide

/-- V1.4 of spec/96: `LDX #$FF`. -/
theorem test_V1_4_ldxImm :
    runs (start |>.setP 0x10) [0xA2, 0xFF]
      (fun t => t.x == 0x00FF && t.p == 0x90 && t.pc == 0x8002) = true := by decide

/-- V1.5 of spec/96: `CPY #$0001`. -/
theorem test_V1_5_cpyImm :
    runs (start |>.setP 0x20 |>.setY 0x0001) [0xC0, 0x01, 0x00]
      (fun t => t.p == 0x23 && t.pc == 0x8003) = true := by decide

/-- V1.6 of spec/96: `BIT #$01`. -/
theorem test_V1_6_bitImm :
    runs (start |>.setP 0x30 |>.setC 0x00FE) [0x89, 0x01]
      (fun t => t.p == 0x32 && t.pc == 0x8002) = true := by decide

/-- V1.7 of spec/96: `REP #$FF`. -/
theorem test_V1_7_rep :
    runs (start |>.setP 0xFF) [0xC2, 0xFF]
      (fun t => t.p == 0x00 && t.pc == 0x8002) = true := by decide

/-- V1.8 of spec/96: `WDM #$FF`. -/
theorem test_V1_8_wdm :
    runs start [0x42, 0xFF]
      (fun t => t.pc == 0x8002 && t.p == 0x00) = true := by decide

/-- V1.9 of spec/96: `NOP`. -/
theorem test_V1_9_nop :
    runs (start |>.setPc 0xFFFF) [0xEA]
      (fun t => t.pc == 0x0000 && t.p == 0x00) = true := by decide

/-- V1.10 of spec/96: `LDA $1234`. -/
theorem test_V1_10_ldaAbs :
    runs (start |>.setDbr 0x7E |>.setPbr 0x01 |>.setPc 0xFFFE |> fill 0x7E1234 [0x11, 0x22]) [0xAD, 0x34, 0x12]
      (fun t => t.c == 0x2211 && t.pc == 0x0001 && t.p == 0x00) = true := by decide

/-- V2.1 of spec/96: `LDA $FFFF`. -/
theorem test_V2_1_ldaAbs :
    runs (start |>.setDbr 0x12 |> fill 0x12FFFF [0x34] |> fill 0x130000 [0x12]) [0xAD, 0xFF, 0xFF]
      (fun t => t.c == 0x1234 && t.pc == 0x8003 && t.p == 0x00) = true := by decide

/-- V2.2 of spec/96: `LDA $FFFF,X`. -/
theorem test_V2_2_ldaAbsX :
    runs (start |>.setP 0x20 |>.setX 0x0001 |>.setDbr 0x7E |> fill 0x7F0000 [0x5A]) [0xBD, 0xFF, 0xFF]
      (fun t => t.c == 0x005A && t.pc == 0x8003 && t.p == 0x20) = true := by decide

/-- V2.3 of spec/96: `LDA $8000,Y`. -/
theorem test_V2_3_ldaAbsY :
    runs (start |>.setP 0x20 |>.setY 0x8001 |>.setDbr 0x7E |> fill 0x7F0001 [0xA5]) [0xB9, 0x00, 0x80]
      (fun t => t.c == 0x00A5 && t.p == 0xA0 && t.pc == 0x8003) = true := by decide

/-- V2.5 of spec/96: `LDA $7EFFFF,X`. -/
theorem test_V2_5_ldaLongX :
    runs (start |>.setP 0x20 |>.setX 0x0002 |> fill 0x7F0001 [0x77]) [0xBF, 0xFF, 0xFF, 0x7E]
      (fun t => t.c == 0x0077 && t.pc == 0x8004 && t.p == 0x20) = true := by decide

/-- V2.6 of spec/96: `LDA $FF`. -/
theorem test_V2_6_ldaDp :
    runs (start |>.setP 0x20 |>.setD 0xFF01 |> fill 0x000000 [0x42]) [0xA5, 0xFF]
      (fun t => t.c == 0x0042 && t.pc == 0x8002 && t.p == 0x20) = true := by decide

/-- V2.7 of spec/96: `LDA $FF`. -/
theorem test_V2_7_ldaDp :
    runs (start |>.setD 0xFF00 |> fill 0x00FFFF [0x34] |> fill 0x000000 [0x12]) [0xA5, 0xFF]
      (fun t => t.c == 0x1234 && t.pc == 0x8002 && t.p == 0x00) = true := by decide

/-- V2.8 of spec/96: `LDA $FF,X`. -/
theorem test_V2_8_ldaDpX :
    runs (start |>.setP 0x20 |>.setX 0x0010 |> fill 0x00010F [0x99]) [0xB5, 0xFF]
      (fun t => t.c == 0x0099 && t.p == 0xA0 && t.pc == 0x8002) = true := by decide

/-- V2.9 of spec/96: `LDA $FF,X`. -/
theorem test_V2_9_ldaDpX :
    runs (start |>.setE true |>.setP 0x30 |>.setX 0x0010 |>.setSp 0x01FF |> fill 0x00000F [0x88] |> fill 0x00010F [0x99]) [0xB5, 0xFF]
      (fun t => t.c == 0x0088 && t.p == 0xB0 && t.pc == 0x8002) = true := by decide

/-- V2.11 of spec/96: `LDX $10,Y`. -/
theorem test_V2_11_ldxDpY :
    runs (start |>.setY 0x0005 |>.setD 0x0100 |> fill 0x000115 [0xCD, 0xAB]) [0xB6, 0x10]
      (fun t => t.x == 0xABCD && t.p == 0x80 && t.pc == 0x8002) = true := by decide

/-- V2.12 of spec/96: `LDA ($FF)`. -/
theorem test_V2_12_ldaDpInd :
    runs (start |>.setP 0x20 |>.setDbr 0x7E |> fill 0x0000FF [0x00] |> fill 0x000100 [0x30] |> fill 0x7E3000 [0x11]) [0xB2, 0xFF]
      (fun t => t.c == 0x0011 && t.pc == 0x8002 && t.p == 0x20) = true := by decide

/-- V2.13 of spec/96: `LDA ($FF)`. -/
theorem test_V2_13_ldaDpInd :
    runs (start |>.setE true |>.setP 0x30 |>.setSp 0x01FF |>.setDbr 0x7E |> fill 0x0000FF [0x00] |> fill 0x000000 [0x40] |> fill 0x000100 [0x30] |> fill 0x7E4000 [0x22] |> fill 0x7E3000 [0x11]) [0xB2, 0xFF]
      (fun t => t.c == 0x0022 && t.pc == 0x8002 && t.p == 0x30) = true := by decide

/-- V2.14 of spec/96: `LDA ($F0,X)`. -/
theorem test_V2_14_ldaDpIndX :
    runs (start |>.setP 0x20 |>.setX 0x0020 |>.setDbr 0x7E |> fill 0x000110 [0x00, 0x50] |> fill 0x7E5000 [0x33]) [0xA1, 0xF0]
      (fun t => t.c == 0x0033 && t.pc == 0x8002 && t.p == 0x20) = true := by decide

/-- V2.15 of spec/96: `LDA ($F0,X)`. -/
theorem test_V2_15_ldaDpIndX :
    runs (start |>.setE true |>.setP 0x30 |>.setX 0x0020 |>.setSp 0x01FF |>.setDbr 0x7E |> fill 0x000010 [0x00, 0x60] |> fill 0x7E6000 [0x44]) [0xA1, 0xF0]
      (fun t => t.c == 0x0044 && t.pc == 0x8002 && t.p == 0x30) = true := by decide

/-- V2.16 of spec/96: `LDA ($10),Y`. -/
theorem test_V2_16_ldaDpIndY :
    runs (start |>.setP 0x20 |>.setY 0x0002 |>.setDbr 0x7E |> fill 0x000010 [0xFF, 0xFF] |> fill 0x7F0001 [0x55]) [0xB1, 0x10]
      (fun t => t.c == 0x0055 && t.pc == 0x8002 && t.p == 0x20) = true := by decide

/-- V2.17 of spec/96: `LDA [$10]`. -/
theorem test_V2_17_ldaDpIndLong :
    runs (start |>.setP 0x20 |>.setDbr 0x00 |> fill 0x000010 [0x00, 0x20, 0x7F] |> fill 0x7F2000 [0x66]) [0xA7, 0x10]
      (fun t => t.c == 0x0066 && t.pc == 0x8002 && t.p == 0x20) = true := by decide

/-- V2.18 of spec/96: `LDA [$10],Y`. -/
theorem test_V2_18_ldaDpIndLongY :
    runs (start |>.setY 0x0001 |> fill 0x000010 [0xFF, 0xFF, 0x7E] |> fill 0x7F0000 [0x78, 0x56]) [0xB7, 0x10]
      (fun t => t.c == 0x5678 && t.pc == 0x8002 && t.p == 0x00) = true := by decide

/-- V2.19 of spec/96: `LDA [$FE]`. -/
theorem test_V2_19_ldaDpIndLong :
    runs (start |>.setP 0x20 |>.setD 0xFF00 |> fill 0x00FFFE [0x00, 0x10] |> fill 0x000000 [0x7F] |> fill 0x7F1000 [0x9A]) [0xA7, 0xFE]
      (fun t => t.c == 0x009A && t.p == 0xA0 && t.pc == 0x8002) = true := by decide

/-- V2.20 of spec/96: `LDA $01,S`. -/
theorem test_V2_20_ldaSr :
    runs (start |>.setP 0x20 |>.setSp 0xFFFF |> fill 0x000000 [0x5C]) [0xA3, 0x01]
      (fun t => t.c == 0x005C && t.pc == 0x8002 && t.p == 0x20) = true := by decide

/-- V2.21 of spec/96: `LDA $FF,S`. -/
theorem test_V2_21_ldaSr :
    runs (start |>.setE true |>.setP 0x30 |>.setSp 0x01FF |> fill 0x0002FE [0x3C]) [0xA3, 0xFF]
      (fun t => t.c == 0x003C && t.pc == 0x8002 && t.p == 0x30) = true := by decide

/-- V2.22 of spec/96: `LDA ($01,S),Y`. -/
theorem test_V2_22_ldaSrIndY :
    runs (start |>.setP 0x20 |>.setY 0x0010 |>.setSp 0x1FF0 |>.setDbr 0x7F |> fill 0x001FF1 [0xF8, 0xFF] |> fill 0x800008 [0x4D]) [0xB3, 0x01]
      (fun t => t.c == 0x004D && t.pc == 0x8002 && t.p == 0x20) = true := by decide

/-- V3.1 of spec/96: `LDA #$00`. -/
theorem test_V3_1_ldaImm :
    runs (start |>.setP 0x20 |>.setC 0x12FF) [0xA9, 0x00]
      (fun t => t.c == 0x1200 && t.p == 0x22 && t.pc == 0x8002) = true := by decide

/-- V3.5 of spec/96: `LDY #$0000`. -/
theorem test_V3_5_ldyImm :
    runs (start |>.setY 0x1234) [0xA0, 0x00, 0x00]
      (fun t => t.y == 0x0000 && t.p == 0x02 && t.pc == 0x8003) = true := by decide

/-- V3.6 of spec/96: `LDX $2000`. -/
theorem test_V3_6_ldxAbs :
    runs (start |>.setP 0x10 |>.setX 0x0000 |>.setDbr 0x7E |> fill 0x7E2000 [0x7F, 0xFF]) [0xAE, 0x00, 0x20]
      (fun t => t.x == 0x007F && t.pc == 0x8003 && t.p == 0x10) = true := by decide

/-- V3.7 of spec/96: `STA $2000`. -/
theorem test_V3_7_staAbs :
    runs (start |>.setC 0x1234 |>.setDbr 0x7E) [0x8D, 0x00, 0x20]
      (fun t => t.pc == 0x8003 && t.p == 0x00 && shows t 0x7E2000 [0x34, 0x12]) = true := by decide

/-- V3.8 of spec/96: `STA $2000`. -/
theorem test_V3_8_staAbs :
    runs (start |>.setP 0x20 |>.setC 0x1234 |>.setDbr 0x7E) [0x8D, 0x00, 0x20]
      (fun t => t.pc == 0x8003 && t.p == 0x20 && shows t 0x7E2000 [0x34]) = true := by decide

/-- V3.9 of spec/96: `STX $10`. -/
theorem test_V3_9_stxDp :
    runs (start |>.setX 0xBEEF |>.setD 0x0300) [0x86, 0x10]
      (fun t => t.pc == 0x8002 && t.p == 0x00 && shows t 0x000310 [0xEF, 0xBE]) = true := by decide

/-- V3.10 of spec/96: `STY $FFFF`. -/
theorem test_V3_10_styAbs :
    runs (start |>.setY 0xA55A |>.setDbr 0x7E) [0x8C, 0xFF, 0xFF]
      (fun t => t.pc == 0x8003 && t.p == 0x00 && shows t 0x7EFFFF [0x5A, 0xA5]) = true := by decide

/-- V3.11 of spec/96: `STZ $2000,X`. -/
theorem test_V3_11_stzAbsX :
    runs (start |>.setX 0x0002 |>.setDbr 0x7E |> fill 0x7E2002 [0xFF, 0xFF]) [0x9E, 0x00, 0x20]
      (fun t => t.pc == 0x8003 && t.p == 0x00 && shows t 0x7E2002 [0x00, 0x00]) = true := by decide

/-- V3.12 of spec/96: `STZ $10`. -/
theorem test_V3_12_stzDp :
    runs (start |>.setP 0x20 |> fill 0x000010 [0xFF, 0xFF]) [0x64, 0x10]
      (fun t => t.pc == 0x8002 && t.p == 0x20 && shows t 0x000010 [0x00]) = true := by decide

/-- V3.14 of spec/96: `TAX`. -/
theorem test_V3_14_tax :
    runs (start |>.setP 0x20 |>.setC 0x12FF) [0xAA]
      (fun t => t.x == 0x12FF && t.pc == 0x8001 && t.p == 0x20) = true := by decide

/-- V3.15 of spec/96: `TAY`. -/
theorem test_V3_15_tay :
    runs (start |>.setP 0x10 |>.setC 0x1280) [0xA8]
      (fun t => t.y == 0x0080 && t.p == 0x90 && t.pc == 0x8001) = true := by decide

/-- V3.16 of spec/96: `TXA`. -/
theorem test_V3_16_txa :
    runs (start |>.setP 0x20 |>.setC 0x5577 |>.setX 0x0100) [0x8A]
      (fun t => t.c == 0x5500 && t.p == 0x22 && t.pc == 0x8001) = true := by decide

/-- V3.17 of spec/96: `TYA`. -/
theorem test_V3_17_tya :
    runs (start |>.setP 0x10 |>.setC 0xFFFF |>.setY 0x00C0) [0x98]
      (fun t => t.c == 0x00C0 && t.pc == 0x8001 && t.p == 0x10) = true := by decide

/-- V3.18 of spec/96: `TXY`. -/
theorem test_V3_18_txy :
    runs (start |>.setX 0x8000) [0x9B]
      (fun t => t.y == 0x8000 && t.p == 0x80 && t.pc == 0x8001) = true := by decide

/-- V3.19 of spec/96: `TYX`. -/
theorem test_V3_19_tyx :
    runs (start |>.setP 0x10 |>.setX 0x0055 |>.setY 0x0000) [0xBB]
      (fun t => t.x == 0x0000 && t.p == 0x12 && t.pc == 0x8001) = true := by decide

/-- V3.20 of spec/96: `TCD`. -/
theorem test_V3_20_tcd :
    runs (start |>.setP 0x20 |>.setC 0x8000) [0x5B]
      (fun t => t.d == 0x8000 && t.p == 0xA0 && t.pc == 0x8001) = true := by decide

/-- V3.21 of spec/96: `TDC`. -/
theorem test_V3_21_tdc :
    runs (start |>.setP 0x20 |>.setC 0x1234 |>.setD 0x0000) [0x7B]
      (fun t => t.c == 0x0000 && t.p == 0x22 && t.pc == 0x8001) = true := by decide

/-- V3.22 of spec/96: `TCS`. -/
theorem test_V3_22_tcs :
    runs (start |>.setP 0x80 |>.setC 0x0000) [0x1B]
      (fun t => t.sp == 0x0000 && t.pc == 0x8001 && t.p == 0x80) = true := by decide

/-- V3.23 of spec/96: `TCS`. -/
theorem test_V3_23_tcs :
    runs (start |>.setE true |>.setP 0x30 |>.setC 0x02F0 |>.setSp 0x01FF) [0x1B]
      (fun t => t.sp == 0x01F0 && t.pc == 0x8001 && t.p == 0x30) = true := by decide

/-- V3.24 of spec/96: `TSC`. -/
theorem test_V3_24_tsc :
    runs (start |>.setE true |>.setP 0x30 |>.setC 0x0000 |>.setSp 0x01F0) [0x3B]
      (fun t => t.c == 0x01F0 && t.pc == 0x8001 && t.p == 0x30) = true := by decide

/-- V3.25 of spec/96: `TXS`. -/
theorem test_V3_25_txs :
    runs (start |>.setP 0x10 |>.setX 0x0080 |>.setSp 0x1FFF) [0x9A]
      (fun t => t.sp == 0x0080 && t.pc == 0x8001 && t.p == 0x10) = true := by decide

/-- V3.26 of spec/96: `TXS`. -/
theorem test_V3_26_txs :
    runs (start |>.setE true |>.setP 0x30 |>.setX 0x0080 |>.setSp 0x01FF) [0x9A]
      (fun t => t.sp == 0x0180 && t.pc == 0x8001 && t.p == 0x30) = true := by decide

/-- V3.27 of spec/96: `TSX`. -/
theorem test_V3_27_tsx :
    runs (start |>.setP 0x10 |>.setSp 0x1F80) [0xBA]
      (fun t => t.x == 0x0080 && t.p == 0x90 && t.pc == 0x8001) = true := by decide

/-- V3.28 of spec/96: `TSX`. -/
theorem test_V3_28_tsx :
    runs (start |>.setX 0x1111 |>.setSp 0x0000) [0xBA]
      (fun t => t.x == 0x0000 && t.p == 0x02 && t.pc == 0x8001) = true := by decide

/-- V4.1 of spec/96: `PHA`. -/
theorem test_V4_1_pha :
    runs (start |>.setC 0x1234) [0x48]
      (fun t => t.sp == 0x1FFD && t.pc == 0x8001 && t.p == 0x00 && shows t 0x001FFE [0x34, 0x12]) = true := by decide

/-- V4.3 of spec/96: `PHA`. -/
theorem test_V4_3_pha :
    runs (start |>.setC 0x1234 |>.setSp 0x0000) [0x48]
      (fun t => t.sp == 0xFFFE && t.pc == 0x8001 && t.p == 0x00 && shows t 0x000000 [0x12]) = true := by decide

/-- V4.5 of spec/96: `PLA`. -/
theorem test_V4_5_pla :
    runs (start |>.setE true |>.setP 0x30 |>.setSp 0x01FF |> fill 0x000100 [0x80]) [0x68]
      (fun t => t.c == 0x0080 && t.sp == 0x0100 && t.p == 0xB0 && t.pc == 0x8001) = true := by decide

/-- V4.6 of spec/96: `PLA`. -/
theorem test_V4_6_pla :
    runs (start |>.setC 0xFFFF |>.setSp 0x1FFD |> fill 0x001FFE [0x00, 0x00]) [0x68]
      (fun t => t.c == 0x0000 && t.sp == 0x1FFF && t.p == 0x02 && t.pc == 0x8001) = true := by decide

/-- V4.8 of spec/96: `PHX`. -/
theorem test_V4_8_phx :
    runs (start |>.setP 0x10 |>.setX 0x0042) [0xDA]
      (fun t => t.sp == 0x1FFE && t.pc == 0x8001 && t.p == 0x10 && shows t 0x001FFF [0x42]) = true := by decide

/-- V4.9 of spec/96: `PHY`. -/
theorem test_V4_9_phy :
    runs (start |>.setY 0xBEEF |>.setSp 0x1000) [0x5A]
      (fun t => t.sp == 0x0FFE && t.pc == 0x8001 && t.p == 0x00 && shows t 0x000FFF [0xEF, 0xBE]) = true := by decide

/-- V4.10 of spec/96: `PLX`. -/
theorem test_V4_10_plx :
    runs (start |>.setSp 0x1FFD |> fill 0x001FFE [0xCD, 0xAB]) [0xFA]
      (fun t => t.x == 0xABCD && t.sp == 0x1FFF && t.p == 0x80 && t.pc == 0x8001) = true := by decide

/-- V4.11 of spec/96: `PLY`. -/
theorem test_V4_11_ply :
    runs (start |>.setP 0x10 |>.setY 0x0011 |>.setSp 0x1FFE |> fill 0x001FFF [0x00]) [0x7A]
      (fun t => t.y == 0x0000 && t.sp == 0x1FFF && t.p == 0x12 && t.pc == 0x8001) = true := by decide

/-- V4.12 of spec/96: `PHB`. -/
theorem test_V4_12_phb :
    runs (start |>.setDbr 0x7E) [0x8B]
      (fun t => t.sp == 0x1FFE && t.pc == 0x8001 && t.p == 0x00 && shows t 0x001FFF [0x7E]) = true := by decide

/-- V4.13 of spec/96: `PLB`. -/
theorem test_V4_13_plb :
    runs (start |>.setSp 0x1FFE |> fill 0x001FFF [0x80]) [0xAB]
      (fun t => t.sp == 0x1FFF && t.dbr == 0x80 && t.p == 0x80 && t.pc == 0x8001) = true := by decide

/-- V4.15 of spec/96: `PHD`. -/
theorem test_V4_15_phd :
    runs (start |>.setD 0x1234) [0x0B]
      (fun t => t.sp == 0x1FFD && t.pc == 0x8001 && t.p == 0x00 && shows t 0x001FFE [0x34, 0x12]) = true := by decide

/-- V4.16 of spec/96: `PLD`. -/
theorem test_V4_16_pld :
    runs (start |>.setSp 0x1FFD |>.setD 0x1234 |> fill 0x001FFE [0x00, 0x80]) [0x2B]
      (fun t => t.sp == 0x1FFF && t.d == 0x8000 && t.p == 0x80 && t.pc == 0x8001) = true := by decide

/-- V4.17 of spec/96: `PHP`. -/
theorem test_V4_17_php :
    runs (start |>.setP 0xC3) [0x08]
      (fun t => t.sp == 0x1FFE && t.pc == 0x8001 && t.p == 0xC3 && shows t 0x001FFF [0xC3]) = true := by decide

/-- V4.18 of spec/96: `PHP`. -/
theorem test_V4_18_php :
    runs (start |>.setE true |>.setP 0x31 |>.setSp 0x01FF) [0x08]
      (fun t => t.sp == 0x01FE && t.pc == 0x8001 && t.p == 0x31 && shows t 0x0001FF [0x31]) = true := by decide

/-- V4.19 of spec/96: `PLP`. -/
theorem test_V4_19_plp :
    runs (start |>.setX 0x1234 |>.setY 0xFFFF |>.setSp 0x1FFE |> fill 0x001FFF [0x10]) [0x28]
      (fun t => t.x == 0x0034 && t.y == 0x00FF && t.sp == 0x1FFF && t.p == 0x10 && t.pc == 0x8001) = true := by decide

/-- V4.20 of spec/96: `PLP`. -/
theorem test_V4_20_plp :
    runs (start |>.setE true |>.setP 0x30 |>.setSp 0x01FE |> fill 0x0001FF [0xC1]) [0x28]
      (fun t => t.sp == 0x01FF && t.p == 0xF1 && t.pc == 0x8001) = true := by decide

/-- V4.21 of spec/96: `PEA $1234`. -/
theorem test_V4_21_pea :
    runs (start |>.setP 0x30) [0xF4, 0x34, 0x12]
      (fun t => t.sp == 0x1FFD && t.pc == 0x8003 && t.p == 0x30 && shows t 0x001FFE [0x34, 0x12]) = true := by decide

/-- V4.22 of spec/96: `PEI ($10)`. -/
theorem test_V4_22_pei :
    runs (start |>.setD 0x0200 |> fill 0x000210 [0x78, 0x56]) [0xD4, 0x10]
      (fun t => t.sp == 0x1FFD && t.pc == 0x8002 && t.p == 0x00 && shows t 0x001FFE [0x78, 0x56]) = true := by decide

/-- V4.23 of spec/96: `PER $8013`. -/
theorem test_V4_23_per :
    runs start [0x62, 0x10, 0x00]
      (fun t => t.sp == 0x1FFD && t.pc == 0x8003 && t.p == 0x00 && shows t 0x001FFE [0x13, 0x80]) = true := by decide

/-- V4.24 of spec/96: `PER $7FF0`. -/
theorem test_V4_24_per :
    runs start [0x62, 0xED, 0xFF]
      (fun t => t.sp == 0x1FFD && t.pc == 0x8003 && t.p == 0x00 && shows t 0x001FFE [0xF0, 0x7F]) = true := by decide

/-- V5.2 of spec/96: `ADC #$00`. -/
theorem test_V5_2_adcImm :
    runs (start |>.setP 0x21 |>.setC 0x12FF) [0x69, 0x00]
      (fun t => t.c == 0x1200 && t.p == 0x23 && t.pc == 0x8002) = true := by decide

/-- V5.3 of spec/96: `ADC #$01`. -/
theorem test_V5_3_adcImm :
    runs (start |>.setP 0x20 |>.setC 0x007F) [0x69, 0x01]
      (fun t => t.c == 0x0080 && t.p == 0xE0 && t.pc == 0x8002) = true := by decide

/-- V5.8 of spec/96: `ADC $10`. -/
theorem test_V5_8_adcDp :
    runs (start |>.setC 0x00FF |>.setD 0x0100 |> fill 0x000110 [0x01, 0x00]) [0x65, 0x10]
      (fun t => t.c == 0x0100 && t.pc == 0x8002 && t.p == 0x00) = true := by decide

/-- V5.11 of spec/96: `SBC #$01`. -/
theorem test_V5_11_sbcImm :
    runs (start |>.setP 0x21 |>.setC 0x0080) [0xE9, 0x01]
      (fun t => t.c == 0x007F && t.p == 0x61 && t.pc == 0x8002) = true := by decide

/-- V5.13 of spec/96: `SBC #$0001`. -/
theorem test_V5_13_sbcImm :
    runs (start |>.setP 0x01 |>.setC 0x8000) [0xE9, 0x01, 0x00]
      (fun t => t.c == 0x7FFF && t.p == 0x41 && t.pc == 0x8003) = true := by decide

/-- V5.26 of spec/96: `INC A`. -/
theorem test_V5_26_incAcc :
    runs (start |>.setP 0x01 |>.setC 0xFFFF) [0x1A]
      (fun t => t.c == 0x0000 && t.p == 0x03 && t.pc == 0x8001) = true := by decide

/-- V5.27 of spec/96: `INC A`. -/
theorem test_V5_27_incAcc :
    runs (start |>.setP 0x20 |>.setC 0x12FF) [0x1A]
      (fun t => t.c == 0x1200 && t.p == 0x22 && t.pc == 0x8001) = true := by decide

/-- V5.28 of spec/96: `DEC A`. -/
theorem test_V5_28_decAcc :
    runs (start |>.setC 0x0000) [0x3A]
      (fun t => t.c == 0xFFFF && t.p == 0x80 && t.pc == 0x8001) = true := by decide

/-- V5.29 of spec/96: `INC $2100`. -/
theorem test_V5_29_incAbs :
    runs (start |>.setP 0x20 |>.setDbr 0x7E |> fill 0x7E2100 [0x7F]) [0xEE, 0x00, 0x21]
      (fun t => t.p == 0xA0 && t.pc == 0x8003 && shows t 0x7E2100 [0x80]) = true := by decide

/-- V5.30 of spec/96: `INC $10`. -/
theorem test_V5_30_incDp :
    runs (start |> fill 0x000010 [0xFF, 0x00]) [0xE6, 0x10]
      (fun t => t.pc == 0x8002 && t.p == 0x00 && shows t 0x000010 [0x00, 0x01]) = true := by decide

/-- V5.31 of spec/96: `DEC $2000,X`. -/
theorem test_V5_31_decAbsX :
    runs (start |>.setX 0x0004 |>.setDbr 0x7E |> fill 0x7E2004 [0x00, 0x00]) [0xDE, 0x00, 0x20]
      (fun t => t.p == 0x80 && t.pc == 0x8003 && shows t 0x7E2004 [0xFF, 0xFF]) = true := by decide

/-- V5.32 of spec/96: `INX`. -/
theorem test_V5_32_inx :
    runs (start |>.setX 0x00FF) [0xE8]
      (fun t => t.x == 0x0100 && t.pc == 0x8001 && t.p == 0x00) = true := by decide

/-- V5.33 of spec/96: `INX`. -/
theorem test_V5_33_inx :
    runs (start |>.setP 0x10 |>.setX 0x00FF) [0xE8]
      (fun t => t.x == 0x0000 && t.p == 0x12 && t.pc == 0x8001) = true := by decide

/-- V5.34 of spec/96: `INY`. -/
theorem test_V5_34_iny :
    runs (start |>.setY 0x7FFF) [0xC8]
      (fun t => t.y == 0x8000 && t.p == 0x80 && t.pc == 0x8001) = true := by decide

/-- V5.35 of spec/96: `DEX`. -/
theorem test_V5_35_dex :
    runs (start |>.setP 0x10 |>.setX 0x0000) [0xCA]
      (fun t => t.x == 0x00FF && t.p == 0x90 && t.pc == 0x8001) = true := by decide

/-- V5.36 of spec/96: `DEX`. -/
theorem test_V5_36_dex :
    runs (start |>.setX 0x0001) [0xCA]
      (fun t => t.x == 0x0000 && t.p == 0x02 && t.pc == 0x8001) = true := by decide

/-- V5.37 of spec/96: `DEY`. -/
theorem test_V5_37_dey :
    runs (start |>.setY 0x0000) [0x88]
      (fun t => t.y == 0xFFFF && t.p == 0x80 && t.pc == 0x8001) = true := by decide

/-- V6.1 of spec/96: `AND #$0F`. -/
theorem test_V6_1_andImm :
    runs (start |>.setP 0x20 |>.setC 0x12F5) [0x29, 0x0F]
      (fun t => t.c == 0x1205 && t.pc == 0x8002 && t.p == 0x20) = true := by decide

/-- V6.2 of spec/96: `AND #$FF00`. -/
theorem test_V6_2_andImm :
    runs (start |>.setC 0x80FF) [0x29, 0x00, 0xFF]
      (fun t => t.c == 0x8000 && t.p == 0x80 && t.pc == 0x8003) = true := by decide

/-- V6.3 of spec/96: `AND $10`. -/
theorem test_V6_3_andDp :
    runs (start |>.setC 0xFFFF |> fill 0x000010 [0x00, 0x00]) [0x25, 0x10]
      (fun t => t.c == 0x0000 && t.p == 0x02 && t.pc == 0x8002) = true := by decide

/-- V6.4 of spec/96: `ORA #$80`. -/
theorem test_V6_4_oraImm :
    runs (start |>.setP 0x20 |>.setC 0x0001) [0x09, 0x80]
      (fun t => t.c == 0x0081 && t.p == 0xA0 && t.pc == 0x8002) = true := by decide

/-- V6.5 of spec/96: `ORA #$0000`. -/
theorem test_V6_5_oraImm :
    runs (start |>.setC 0x0000) [0x09, 0x00, 0x00]
      (fun t => t.p == 0x02 && t.pc == 0x8003) = true := by decide

/-- V6.6 of spec/96: `EOR #$FF`. -/
theorem test_V6_6_eorImm :
    runs (start |>.setP 0x20 |>.setC 0x00FF) [0x49, 0xFF]
      (fun t => t.c == 0x0000 && t.p == 0x22 && t.pc == 0x8002) = true := by decide

/-- V6.7 of spec/96: `EOR #$FFFF`. -/
theorem test_V6_7_eorImm :
    runs (start |>.setC 0x7FFF) [0x49, 0xFF, 0xFF]
      (fun t => t.c == 0x8000 && t.p == 0x80 && t.pc == 0x8003) = true := by decide

/-- V6.9 of spec/96: `BIT #$8000`. -/
theorem test_V6_9_bitImm :
    runs (start |>.setP 0x02 |>.setC 0x8000) [0x89, 0x00, 0x80]
      (fun t => t.p == 0x00 && t.pc == 0x8003) = true := by decide

/-- V6.10 of spec/96: `BIT $10`. -/
theorem test_V6_10_bitDp :
    runs (start |>.setC 0x4000 |> fill 0x000010 [0x00, 0x40]) [0x24, 0x10]
      (fun t => t.p == 0x40 && t.pc == 0x8002) = true := by decide

/-- V6.11 of spec/96: `TSB $0100`. -/
theorem test_V6_11_tsbAbs :
    runs (start |>.setP 0x20 |>.setC 0x0081 |>.setDbr 0x7E |> fill 0x7E0100 [0x7E]) [0x0C, 0x00, 0x01]
      (fun t => t.p == 0x22 && t.pc == 0x8003 && shows t 0x7E0100 [0xFF]) = true := by decide

/-- V6.12 of spec/96: `TRB $20`. -/
theorem test_V6_12_trbDp :
    runs (start |>.setP 0x20 |>.setC 0x000F |> fill 0x000020 [0x3C]) [0x14, 0x20]
      (fun t => t.pc == 0x8002 && t.p == 0x20 && shows t 0x000020 [0x30]) = true := by decide

/-- V6.13 of spec/96: `TRB $20`. -/
theorem test_V6_13_trbDp :
    runs (start |>.setC 0xFF00 |> fill 0x000020 [0x34, 0x12]) [0x14, 0x20]
      (fun t => t.pc == 0x8002 && t.p == 0x00 && shows t 0x000020 [0x34, 0x00]) = true := by decide

/-- V6.14 of spec/96: `ASL A`. -/
theorem test_V6_14_aslAcc :
    runs (start |>.setP 0x20 |>.setC 0x1280) [0x0A]
      (fun t => t.c == 0x1200 && t.p == 0x23 && t.pc == 0x8001) = true := by decide

/-- V6.15 of spec/96: `ASL A`. -/
theorem test_V6_15_aslAcc :
    runs (start |>.setC 0x4000) [0x0A]
      (fun t => t.c == 0x8000 && t.p == 0x80 && t.pc == 0x8001) = true := by decide

/-- V6.16 of spec/96: `ASL $10`. -/
theorem test_V6_16_aslDp :
    runs (start |> fill 0x000010 [0x00, 0x80]) [0x06, 0x10]
      (fun t => t.p == 0x03 && t.pc == 0x8002 && shows t 0x000010 [0x00, 0x00]) = true := by decide

/-- V6.17 of spec/96: `LSR A`. -/
theorem test_V6_17_lsrAcc :
    runs (start |>.setP 0x80 |>.setC 0x0001) [0x4A]
      (fun t => t.c == 0x0000 && t.p == 0x03 && t.pc == 0x8001) = true := by decide

/-- V6.18 of spec/96: `LSR $10,X`. -/
theorem test_V6_18_lsrDpX :
    runs (start |>.setP 0x20 |>.setX 0x0001 |> fill 0x000011 [0xFE]) [0x56, 0x10]
      (fun t => t.pc == 0x8002 && t.p == 0x20 && shows t 0x000011 [0x7F]) = true := by decide

/-- V6.19 of spec/96: `ROL A`. -/
theorem test_V6_19_rolAcc :
    runs (start |>.setP 0x21 |>.setC 0x0080) [0x2A]
      (fun t => t.c == 0x0001 && t.pc == 0x8001 && t.p == 0x21) = true := by decide

/-- V6.20 of spec/96: `ROL A`. -/
theorem test_V6_20_rolAcc :
    runs (start |>.setP 0x01 |>.setC 0x8000) [0x2A]
      (fun t => t.c == 0x0001 && t.pc == 0x8001 && t.p == 0x01) = true := by decide

/-- V6.21 of spec/96: `ROR A`. -/
theorem test_V6_21_rorAcc :
    runs (start |>.setC 0x0001) [0x6A]
      (fun t => t.c == 0x0000 && t.p == 0x03 && t.pc == 0x8001) = true := by decide

/-- V6.22 of spec/96: `ROR A`. -/
theorem test_V6_22_rorAcc :
    runs (start |>.setP 0x01 |>.setC 0x0000) [0x6A]
      (fun t => t.c == 0x8000 && t.p == 0x80 && t.pc == 0x8001) = true := by decide

/-- V6.23 of spec/96: `ROR $2000`. -/
theorem test_V6_23_rorAbs :
    runs (start |>.setP 0x21 |>.setDbr 0x7E |> fill 0x7E2000 [0x01]) [0x6E, 0x00, 0x20]
      (fun t => t.p == 0xA1 && t.pc == 0x8003 && shows t 0x7E2000 [0x80]) = true := by decide

/-- V7.4 of spec/96: `CMP #$01`. -/
theorem test_V7_4_cmpImm :
    runs (start |>.setP 0x60 |>.setC 0x0080) [0xC9, 0x01]
      (fun t => t.p == 0x61 && t.pc == 0x8002) = true := by decide

/-- V7.5 of spec/96: `CMP #$FF`. -/
theorem test_V7_5_cmpImm :
    runs (start |>.setP 0x20 |>.setC 0x1200) [0xC9, 0xFF]
      (fun t => t.pc == 0x8002 && t.p == 0x20) = true := by decide

/-- V7.7 of spec/96: `CMP $10`. -/
theorem test_V7_7_cmpDp :
    runs (start |>.setC 0x1234 |> fill 0x000010 [0x34, 0x12]) [0xC5, 0x10]
      (fun t => t.p == 0x03 && t.pc == 0x8002) = true := by decide

/-- V7.8 of spec/96: `CPX #$0100`. -/
theorem test_V7_8_cpxImm :
    runs (start |>.setX 0x00FF) [0xE0, 0x00, 0x01]
      (fun t => t.p == 0x80 && t.pc == 0x8003) = true := by decide

/-- V7.9 of spec/96: `CPX #$10`. -/
theorem test_V7_9_cpxImm :
    runs (start |>.setP 0x10 |>.setX 0x0010) [0xE0, 0x10]
      (fun t => t.p == 0x13 && t.pc == 0x8002) = true := by decide

/-- V7.10 of spec/96: `CPY $10`. -/
theorem test_V7_10_cpyDp :
    runs (start |>.setP 0x10 |>.setY 0x0080 |> fill 0x000010 [0x7F, 0xFF]) [0xC4, 0x10]
      (fun t => t.p == 0x11 && t.pc == 0x8002) = true := by decide

/-- V7.11 of spec/96: `CPY #$0000`. -/
theorem test_V7_11_cpyImm :
    runs (start |>.setY 0xFFFF) [0xC0, 0x00, 0x00]
      (fun t => t.p == 0x81 && t.pc == 0x8003) = true := by decide

/-- V8.1 of spec/96: `BEQ $8010`. -/
theorem test_V8_1_beq :
    runs (start |>.setP 0x02) [0xF0, 0x0E]
      (fun t => t.pc == 0x8010 && t.p == 0x02) = true := by decide

/-- V8.3 of spec/96: `BNE $7FF0`. -/
theorem test_V8_3_bne :
    runs start [0xD0, 0xEE]
      (fun t => t.pc == 0x7FF0 && t.p == 0x00) = true := by decide

/-- V8.4 of spec/96: `BNE $8000`. -/
theorem test_V8_4_bne :
    runs start [0xD0, 0xFE]
      (fun t => t.pc == 0x8000 && t.p == 0x00) = true := by decide

/-- V8.5 of spec/96: `BCC $8081`. -/
theorem test_V8_5_bcc :
    runs start [0x90, 0x7F]
      (fun t => t.pc == 0x8081 && t.p == 0x00) = true := by decide

/-- V8.6 of spec/96: `BCS $7F82`. -/
theorem test_V8_6_bcs :
    runs (start |>.setP 0x01) [0xB0, 0x80]
      (fun t => t.pc == 0x7F82 && t.p == 0x01) = true := by decide

/-- V8.7 of spec/96: `BCS $8010`. -/
theorem test_V8_7_bcs :
    runs start [0xB0, 0x0E]
      (fun t => t.pc == 0x8002 && t.p == 0x00) = true := by decide

/-- V8.8 of spec/96: `BMI $8010`. -/
theorem test_V8_8_bmi :
    runs (start |>.setP 0x80) [0x30, 0x0E]
      (fun t => t.pc == 0x8010 && t.p == 0x80) = true := by decide

/-- V8.9 of spec/96: `BPL $8010`. -/
theorem test_V8_9_bpl :
    runs (start |>.setP 0x80) [0x10, 0x0E]
      (fun t => t.pc == 0x8002 && t.p == 0x80) = true := by decide

/-- V8.10 of spec/96: `BVS $8010`. -/
theorem test_V8_10_bvs :
    runs (start |>.setP 0x40) [0x70, 0x0E]
      (fun t => t.pc == 0x8010 && t.p == 0x40) = true := by decide

/-- V8.11 of spec/96: `BVC $8010`. -/
theorem test_V8_11_bvc :
    runs (start |>.setP 0x40) [0x50, 0x0E]
      (fun t => t.pc == 0x8002 && t.p == 0x40) = true := by decide

/-- V8.12 of spec/96: `BRA $0010`. -/
theorem test_V8_12_bra :
    runs (start |>.setPbr 0x01 |>.setPc 0xFFF0) [0x80, 0x1E]
      (fun t => t.pc == 0x0010 && t.p == 0x00) = true := by decide

/-- V8.13 of spec/96: `BRA $FFF0`. -/
theorem test_V8_13_bra :
    runs (start |>.setPbr 0x01 |>.setPc 0x0005) [0x80, 0xE9]
      (fun t => t.pc == 0xFFF0 && t.p == 0x00) = true := by decide

/-- V8.14 of spec/96: `BRL $9234`. -/
theorem test_V8_14_brl :
    runs start [0x82, 0x31, 0x12]
      (fun t => t.pc == 0x9234 && t.p == 0x00) = true := by decide

/-- V8.15 of spec/96: `BRL $0000`. -/
theorem test_V8_15_brl :
    runs start [0x82, 0xFD, 0x7F]
      (fun t => t.pc == 0x0000 && t.p == 0x00) = true := by decide

/-- V9.1 of spec/96: `JMP $9000`. -/
theorem test_V9_1_jmpAbs :
    runs (start |>.setPbr 0x80) [0x4C, 0x00, 0x90]
      (fun t => t.pc == 0x9000 && t.p == 0x00) = true := by decide

/-- V9.2 of spec/96: `JMP ($1000)`. -/
theorem test_V9_2_jmpAbsInd :
    runs (start |>.setPbr 0x80 |> fill 0x001000 [0x34, 0x12]) [0x6C, 0x00, 0x10]
      (fun t => t.pc == 0x1234 && t.p == 0x00) = true := by decide

/-- V9.3 of spec/96: `JMP ($FFFF)`. -/
theorem test_V9_3_jmpAbsInd :
    runs (start |> fill 0x00FFFF [0x00] |> fill 0x000000 [0x90]) [0x6C, 0xFF, 0xFF]
      (fun t => t.pc == 0x9000 && t.p == 0x00) = true := by decide

/-- V9.4 of spec/96: `JMP ($9000,X)`. -/
theorem test_V9_4_jmpAbsIndX :
    runs (start |>.setX 0x0002 |>.setPbr 0x80 |> fill 0x809002 [0x78, 0x56]) [0x7C, 0x00, 0x90]
      (fun t => t.pc == 0x5678 && t.p == 0x00) = true := by decide

/-- V9.5 of spec/96: `JMP ($FFFF,X)`. -/
theorem test_V9_5_jmpAbsIndX :
    runs (start |>.setX 0x0003 |>.setPbr 0x80 |> fill 0x800002 [0x00, 0xA0]) [0x7C, 0xFF, 0xFF]
      (fun t => t.pc == 0xA000 && t.p == 0x00) = true := by decide

/-- V9.6 of spec/96: `JML $808000`. -/
theorem test_V9_6_jmlLong :
    runs start [0x5C, 0x00, 0x80, 0x80]
      (fun t => t.pbr == 0x80 && t.pc == 0x8000 && t.p == 0x00) = true := by decide

/-- V9.7 of spec/96: `JML [$0200]`. -/
theorem test_V9_7_jmlAbsIndLong :
    runs (start |> fill 0x000200 [0x00, 0x90, 0xC0]) [0xDC, 0x00, 0x02]
      (fun t => t.pbr == 0xC0 && t.pc == 0x9000 && t.p == 0x00) = true := by decide

/-- V9.8 of spec/96: `JSR $9234`. -/
theorem test_V9_8_jsrAbs :
    runs start [0x20, 0x34, 0x92]
      (fun t => t.sp == 0x1FFD && t.pc == 0x9234 && t.p == 0x00 && shows t 0x001FFE [0x02, 0x80]) = true := by decide

/-- V9.9 of spec/96: `JSR ($9000,X)`. -/
theorem test_V9_9_jsrAbsIndX :
    runs (start |>.setX 0x0004 |> fill 0x009004 [0x00, 0xA0]) [0xFC, 0x00, 0x90]
      (fun t => t.sp == 0x1FFD && t.pc == 0xA000 && t.p == 0x00 && shows t 0x001FFE [0x02, 0x80]) = true := by decide

/-- V9.10 of spec/96: `JSL $819000`. -/
theorem test_V9_10_jsl :
    runs start [0x22, 0x00, 0x90, 0x81]
      (fun t => t.sp == 0x1FFC && t.pbr == 0x81 && t.pc == 0x9000 && t.p == 0x00 && shows t 0x001FFD [0x03, 0x80, 0x00]) = true := by decide

/-- V9.11 of spec/96: `JSL $819000`. -/
theorem test_V9_11_jsl :
    runs (start |>.setPbr 0x80 |>.setPc 0xFFFC) [0x22, 0x00, 0x90, 0x81]
      (fun t => t.sp == 0x1FFC && t.pbr == 0x81 && t.pc == 0x9000 && t.p == 0x00 && shows t 0x001FFD [0xFF, 0xFF, 0x80]) = true := by decide

/-- V9.12 of spec/96: `RTS`. -/
theorem test_V9_12_rts :
    runs (start |>.setSp 0x1FFD |> fill 0x001FFE [0x02, 0x80]) [0x60]
      (fun t => t.sp == 0x1FFF && t.pc == 0x8003 && t.p == 0x00) = true := by decide

/-- V9.13 of spec/96: `RTS`. -/
theorem test_V9_13_rts :
    runs (start |>.setSp 0x1FFD |>.setPbr 0x80 |> fill 0x001FFE [0xFF, 0xFF]) [0x60]
      (fun t => t.sp == 0x1FFF && t.pc == 0x0000 && t.p == 0x00) = true := by decide

/-- V9.14 of spec/96: `RTL`. -/
theorem test_V9_14_rtl :
    runs (start |>.setSp 0x1FFC |>.setPbr 0x81 |>.setPc 0x9000 |> fill 0x001FFD [0x03, 0x80, 0x00]) [0x6B]
      (fun t => t.sp == 0x1FFF && t.pbr == 0x00 && t.pc == 0x8004 && t.p == 0x00) = true := by decide

/-- V9.15 of spec/96: `RTI`. -/
theorem test_V9_15_rti :
    runs (start |>.setP 0x04 |>.setX 0x1234 |>.setSp 0x1FFB |> fill 0x001FFC [0x30, 0x10, 0x80, 0x01]) [0x40]
      (fun t => t.x == 0x0034 && t.sp == 0x1FFF && t.pbr == 0x01 && t.p == 0x30 && t.pc == 0x8010) = true := by decide

/-- V9.16 of spec/96: `RTI`. -/
theorem test_V9_16_rti :
    runs (start |>.setE true |>.setP 0x34 |>.setSp 0x01FC |>.setPbr 0x00 |> fill 0x0001FD [0x00, 0x10, 0x80]) [0x40]
      (fun t => t.sp == 0x01FF && t.p == 0x30 && t.pc == 0x8010) = true := by decide

/-- V10.1 of spec/96: `XCE`. -/
theorem test_V10_1_xce :
    runs (start |>.setE true |>.setP 0x34 |>.setSp 0x01FF) [0xFB]
      (fun t => t.p == 0x35 && !t.e && t.pc == 0x8001) = true := by decide

/-- V10.2 of spec/96: `XCE`. -/
theorem test_V10_2_xce :
    runs (start |>.setP 0x01 |>.setC 0x5566 |>.setX 0x1234 |>.setY 0xABCD |>.setSp 0x1FF0) [0xFB]
      (fun t => t.x == 0x0034 && t.y == 0x00CD && t.sp == 0x01F0 && t.p == 0x30 && t.e && t.pc == 0x8001) = true := by decide

/-- V10.5 of spec/96: `XBA`. -/
theorem test_V10_5_xba :
    runs (start |>.setC 0x1234) [0xEB]
      (fun t => t.c == 0x3412 && t.pc == 0x8001 && t.p == 0x00) = true := by decide

/-- V10.6 of spec/96: `XBA`. -/
theorem test_V10_6_xba :
    runs (start |>.setP 0x20 |>.setC 0x0080) [0xEB]
      (fun t => t.c == 0x8000 && t.p == 0x22 && t.pc == 0x8001) = true := by decide

/-- V10.8 of spec/96: `REP #$30`. -/
theorem test_V10_8_rep :
    runs (start |>.setE true |>.setP 0x34 |>.setSp 0x01FF) [0xC2, 0x30]
      (fun t => t.pc == 0x8002 && t.p == 0x34) = true := by decide

/-- V10.10 of spec/96: `SEP #$10`. -/
theorem test_V10_10_sep :
    runs (start |>.setX 0x1234 |>.setY 0x5678) [0xE2, 0x10]
      (fun t => t.x == 0x0034 && t.y == 0x0078 && t.p == 0x10 && t.pc == 0x8002) = true := by decide

/-- V10.11 of spec/96: `SEP #$20`. -/
theorem test_V10_11_sep :
    runs (start |>.setC 0x1234) [0xE2, 0x20]
      (fun t => t.p == 0x20 && t.pc == 0x8002) = true := by decide

/-- V10.13 of spec/96: `CLC`. -/
theorem test_V10_13_clc :
    runs (start |>.setP 0xFF) [0x18]
      (fun t => t.p == 0xFE && t.pc == 0x8001) = true := by decide

/-- V10.14 of spec/96: `SEC`. -/
theorem test_V10_14_sec :
    runs start [0x38]
      (fun t => t.p == 0x01 && t.pc == 0x8001) = true := by decide

/-- V10.15 of spec/96: `CLI`. -/
theorem test_V10_15_cli :
    runs (start |>.setP 0x04) [0x58]
      (fun t => t.p == 0x00 && t.pc == 0x8001) = true := by decide

/-- V10.16 of spec/96: `SEI`. -/
theorem test_V10_16_sei :
    runs start [0x78]
      (fun t => t.p == 0x04 && t.pc == 0x8001) = true := by decide

/-- V10.17 of spec/96: `CLD`. -/
theorem test_V10_17_cld :
    runs (start |>.setP 0x08) [0xD8]
      (fun t => t.p == 0x00 && t.pc == 0x8001) = true := by decide

/-- V10.18 of spec/96: `SED`. -/
theorem test_V10_18_sed :
    runs start [0xF8]
      (fun t => t.p == 0x08 && t.pc == 0x8001) = true := by decide

/-- V10.19 of spec/96: `CLV`. -/
theorem test_V10_19_clv :
    runs (start |>.setP 0x40) [0xB8]
      (fun t => t.p == 0x00 && t.pc == 0x8001) = true := by decide

/-- V10.20 of spec/96: `NOP`. -/
theorem test_V10_20_nop :
    runs (start |>.setP 0xA5 |>.setC 0x1111) [0xEA]
      (fun t => t.pc == 0x8001 && t.p == 0xA5) = true := by decide

/-- V10.21 of spec/96: `STP`. -/
theorem test_V10_21_stp :
    runs start [0xDB]
      (fun t => t.pc == 0x8001 && t.stopped && t.p == 0x00) = true := by decide

/-- V10.22 of spec/96: `WAI`. -/
theorem test_V10_22_wai :
    runs start [0xCB]
      (fun t => t.pc == 0x8001 && t.waiting && t.p == 0x00) = true := by decide

/-- V10.23 of spec/96: `BRK #$00`. -/
theorem test_V10_23_brk :
    runs (start |>.setP 0x38 |>.setPbr 0x01 |> fill 0x00FFE6 [0x00, 0x90]) [0x00, 0x00]
      (fun t => t.sp == 0x1FFB && t.pbr == 0x00 && t.p == 0x34 && t.pc == 0x9000 && shows t 0x001FFC [0x38, 0x02, 0x80, 0x01]) = true := by decide

/-- V10.24 of spec/96: `BRK #$EA`. -/
theorem test_V10_24_brk :
    runs (start |>.setE true |>.setP 0x30 |>.setSp 0x01FF |> fill 0x00FFFE [0x00, 0xA0]) [0x00, 0xEA]
      (fun t => t.sp == 0x01FC && t.p == 0x34 && t.pc == 0xA000 && shows t 0x0001FD [0x30, 0x02, 0x80]) = true := by decide

/-- V10.25 of spec/96: `COP #$10`. -/
theorem test_V10_25_cop :
    runs (start |>.setE true |>.setP 0x30 |>.setSp 0x01FF |> fill 0x00FFF4 [0x00, 0xA0]) [0x02, 0x10]
      (fun t => t.sp == 0x01FC && t.p == 0x34 && t.pc == 0xA000 && shows t 0x0001FD [0x30, 0x02, 0x80]) = true := by decide

/-- V10.26 of spec/96: `COP #$01`. -/
theorem test_V10_26_cop :
    runs (start |>.setPbr 0x7E |>.setPc 0x2000 |> fill 0x00FFE4 [0x34, 0x92]) [0x02, 0x01]
      (fun t => t.sp == 0x1FFB && t.pbr == 0x00 && t.p == 0x04 && t.pc == 0x9234 && shows t 0x001FFC [0x00, 0x02, 0x20, 0x7E]) = true := by decide

/-- V11.3 of spec/96: `MVN $7E,$7F`. -/
theorem test_V11_3_mvn :
    runs (start |>.setC 0x0002 |>.setX 0x1000 |>.setY 0x2000 |> fill 0x7E1000 [0xAA, 0xBB, 0xCC]) [0x54, 0x7F, 0x7E]
      (fun t => t.c == 0x0001 && t.x == 0x1001 && t.y == 0x2001 && t.dbr == 0x7F && t.pc == 0x8000 && t.p == 0x00 && shows t 0x7F2000 [0xAA]) = true := by decide

/-- V11.9 of spec/96: `MVN $7E,$7F`. -/
theorem test_V11_9_mvn :
    runs (start |>.setP 0x20 |>.setC 0x0100 |>.setX 0x1000 |>.setY 0x2000 |> fill 0x7E1000 [0x77]) [0x54, 0x7F, 0x7E]
      (fun t => t.c == 0x00FF && t.x == 0x1001 && t.y == 0x2001 && t.dbr == 0x7F && t.pc == 0x8000 && t.p == 0x20 && shows t 0x7F2000 [0x77]) = true := by decide

/-! ### Decimal mode (V5.16 to V5.24: the digit loops, which run where decimal mode is enabled) -/

theorem test_V5_17_decimal_add : (addDecimal .w8 0 0x99 0x01 false).result = 0 ∧ (addDecimal .w8 0 0x99 0x01 false).carry = true := by
  decide

theorem test_V5_20_decimal_add : (addDecimal .w16 0 0x1289 0x2345 false).result = 0x3634 := by decide

theorem test_V5_22_decimal_sub : (subDecimal .w8 0 0x00 0x01 true).result = 0x99 ∧ (subDecimal .w8 0 0x00 0x01 true).carry = false := by
  decide

theorem test_V5_24_decimal_sub : (subDecimal .w8 0 0x46 0x29 false).result = 0x16 ∧ (subDecimal .w8 0 0x46 0x29 false).carry = true := by
  decide

/-! ### Interrupts, WAI, STP, reset (sections 2.12 and 2.13) -/

/-- The vectors chosen for section 2.12. -/
def vectors (s : State) : State :=
  s |> fill 0x00FFEA [0x00, 0x90] |> fill 0x00FFEE [0x00, 0xA0] |> fill 0x00FFFA [0x00, 0xB0] |> fill 0x00FFFE [0x00, 0xC0]

/-- V12.2: NMI is not masked, pushes `P` with `d`, clears it. -/
theorem test_V12_2_nmi :
    runs (start |> vectors |>.setP 0x0C |>.setInputs [⟨true, false, false⟩]) [0xEA]
      (fun t => t.sp == 0x1FFB && t.p == 0x04 && t.pc == 0x9000 && shows t 0x001FFC [0x0C, 0x00, 0x80, 0x00]) = true := by decide

/-- V12.3: IRQ in emulation mode pushes bit 4 as 0. -/
theorem test_V12_3_irq :
    runs (start |> vectors |>.setE true |>.setP 0x30 |>.setSp 0x01FF |>.setInputs [⟨false, true, false⟩]) [0xEA]
      (fun t => t.sp == 0x01FC && t.p == 0x34 && t.pc == 0xC000 && shows t 0x0001FD [0x20, 0x00, 0x80]) = true := by decide

/-- V12.4, step 1: a masked IRQ. -/
theorem test_V12_4_irq_masked :
    runs (start |> vectors |>.setP 0x04 |>.setInputs [⟨false, true, false⟩]) [0xEA]
      (fun t => t.pc == 0x8001 && t.sp == 0x1FFF && t.irqLine) = true := by decide

/-- V12.6, step 1: NMI before IRQ. -/
theorem test_V12_6_priority :
    runs (start |> vectors |>.setInputs [⟨true, true, false⟩]) [0xEA]
      (fun t => t.pc == 0x9000 && !t.nmiPending && t.irqLine) = true := by decide

/-- V12.7, steps 2 and 3: waiting, and the IRQ that ends it. -/
theorem test_V12_7_wai :
    runs (start |>.setWaiting true) [0xE8] (fun t => t.waiting && t.pc == 0x8000 && t.x == 0) = true ∧
    runs (start |> vectors |>.setPc 0x8001 |>.setWaiting true |>.setInputs [⟨false, true, false⟩]) [0xE8]
      (fun t => !t.waiting && t.pc == 0xA000 && shows t 0x001FFC [0x00, 0x01, 0x80, 0x00]) = true := by decide

/-- V12.8, step 2: a masked IRQ only ends the wait. -/
theorem test_V12_8_wai_masked :
    runs (start |>.setP 0x04 |>.setWaiting true |>.setInputs [⟨false, true, false⟩]) [0xE8]
      (fun t => !t.waiting && t.pc == 0x8000 && t.x == 0 && t.sp == 0x1FFF) = true := by decide

/-- V12.10, step 2: a stopped processor, with an NMI edge. -/
theorem test_V12_10_stp :
    runs (start |>.setStopped true |>.setInputs [⟨true, true, false⟩]) [0xE8]
      (fun t => t.stopped && t.nmiPending && t.pc == 0x8000 && t.x == 0) = true := by decide

/-- Section 2.13: `Reset()` from its start state. -/
theorem test_reset_during_run :
    runs (start |> fill 0x00FFFC [0x00, 0x80] |>.setP 0xCB |>.setC 0x1234 |>.setX 0x5678 |>.setY 0x9ABC |>.setSp 0x1F80 |>.setD 0x0300
        |>.setDbr 0x7E |>.setPbr 0x81 |>.setPc 0x1234 |>.setStopped true |>.setNmiPending true |>.setInputs [⟨false, false, true⟩]) []
      (fun t => t.e && t.d == 0 && t.dbr == 0 && t.pbr == 0 && t.pc == 0x8000 && !t.stopped && !t.nmiPending) = true := by decide

/-- Section 2.13, the last sentence: with an all-zero vector execution starts at `$00:0000`. -/
theorem test_reset_vector : State.reset.sys.showsWord 0x00FFFC 0x00FFFD State.reset.pc := ⟨rfl, rfl⟩

/-- V11.2, its first execution. -/
theorem test_V11_2_mvp :
    runs (start |>.setC 0x0002 |>.setX 0x1002 |>.setY 0x2002 |> fill 0x7E1000 [0xAA, 0xBB, 0xCC]) [0x44, 0x7F, 0x7E]
      (fun t => t.c == 1 && t.x == 0x1001 && t.y == 0x2001 && t.dbr == 0x7F && t.pc == 0x8000 && shows t 0x7F2002 [0xCC]) = true := by
  decide

/-! ### The platform -/

/-- R393: 200 times 3, read after five instructions; 1000 divided by 7. -/
theorem test_multiply_divide :
    (System.tickMath^[5] ((System.reset.write8 0x004202 200).write8 0x004203 3)).readByte 0x004216 = 0x58 ∧
    (System.tickMath^[9] (((System.reset.write8 0x004204 0xE8).write8 0x004205 0x03).write8 0x004206 7)).readByte 0x004214 = 142 := by
  decide

/-- Registers of DMA channel 0 as the source's VRAM example sets them (R399), with a count of 3 and a source in RAM. -/
def dmaReady : System :=
  let y := (((System.reset.poke 0x7E2000 0x11).poke 0x7E2001 0x22).poke 0x7E2002 0x33)
  ((((((y.write8 0x004300 0x01).write8 0x004301 0x18).write8 0x004302 0x00).write8 0x004303 0x20).write8 0x004304 0x7E).write8
    0x004305 0x03).write8 0x004306 0x00

/-- R398, mode 1: the bytes go to `$2118`, `$2119`, `$2118`. -/
theorem test_dma_mode1 : (dmaReady.write8 0x00420B 1).busLog.take 3 =
    [.write 0x002118 0x33, .write 0x002119 0x22, .write 0x002118 0x11] := by decide

/-- R77: the low RAM through a system bank, and R78: ROM keeps its byte. -/
theorem test_mirror_and_rom :
    (System.reset.write8 0x811234 0x5A).peek 0x7E1234 = some 0x5A ∧ (System.reset.write8 0x008000 0x5A).peek 0x008000 = some 0 := by
  decide

/-! ### What the host asks -/

theorem test_decodeTableWord : decodeTableWord 8 0xEA = some .nop ∧ decodeTableWord 24 0x1234AD = some (.ldaAbs 0x1234) ∧
    decodeTableWord 16 0x34A9 = some (.ldaImm 0x34) ∧ decodeTableWord 32 0x7E1234AF = some (.ldaLong 0x7E1234) := by decide

theorem test_withFetchWord : (match step (State.reset.withFetchWord 16 0x34A9) with
    | .next t => t.c == 0x34 && t.pc == 2 && t.p == 0x34
    | .fault _ => false
    | .refused _ => false) = true := by decide

/-! ### Witnesses: for each statement with hypotheses, states and operands that meet them -/

/-- A native state with 8-bit registers, data in RAM and a stack in RAM. -/
def small : State := start |>.setP 0x30 |> fill 0x0000FE [0x34, 0x12, 0x7E] |> fill 0x001FFD [0x21, 0x43, 0x65]

/-- The same in emulation mode with `DL = $00` and the stack at the edge of page 1. -/
def smallE : State := start |>.setE true |>.setP 0x30 |>.setSp 0x01FF |> fill 0x000000 [0x12] |> fill 0x0000FF [0x34] |> fill 0x000100 [0x21, 0x43, 0x65]

theorem witness_StepRunsDecodedInstruction :
    ((start.setP 0x20).placeBytes 0 [0xA9, 0xFF]).sample.action (start.setP 0x20).resetRequested = .fetch ∧
    decode true false (((start.setP 0x20).placeBytes 0 [0xA9, 0xFF]).sample.setSys
      ((start.setP 0x20).placeBytes 0 [0xA9, 0xFF]).sys.tickMath).fetchBytes.1 = .ok (.ldaImm 0xFF, []) := by decide

/-- A four-byte instruction that wraps inside bank `$7E`, from `$7E:FFFE` on. -/
theorem witness_StepRunsInstructionInMemory :
    let s := ((start.setPbr 0x7E).setPc 0xFFFE).placeBytes 0 [0x22, 0x00, 0x90, 0x81]
    (Instr.jsl 0x819000).wf (s.flag .m) (s.flag .x) = true ∧ s.sample.action s.resetRequested = .fetch ∧
    ∀ k b, (encode (s.flag .m) (s.flag .x) (.jsl 0x819000))[k]? = some b → s.sys.peek (s.fetchAddr k) = some b := by
  refine ⟨by decide, by decide, fun k b h => ?_⟩
  match k with
  | 0 => cases h; decide
  | 1 => cases h; decide
  | 2 => cases h; decide
  | 3 => cases h; decide
  | _ + 4 => cases h

theorem witness_EncodedInstructionsDecode : (Instr.ldaImm 0x00FF).wf true true = true ∧ (Instr.ldaImm 0xFFFF).wf false true = true ∧
    (Instr.mvn 0x7F 0x7E).wf true true = true := by decide

theorem witness_EveryByteSequenceDecodes : 4 ≤ [(0xAF : Byte), 0xFF, 0xFF, 0xFF].length := by decide

theorem witness_OpcodeLengths : (0x09 : Byte) ∈ [(0x09 : Byte), 0x29, 0x49, 0x69, 0x89, 0xA9, 0xC9, 0xE9] ∧
    (0xE0 : Byte) ∈ [(0xA0 : Byte), 0xA2, 0xC0, 0xE0] ∧ opcodeLength true true 0xE9 ≠ opcodeLength false true 0xE9 := by decide

theorem witness_ResetDuringRun : ((start.setStopped true).setInputs [⟨true, true, true⟩]).resetRequested = true := rfl

/-- The invariants hold of a state in the middle of a run, in each mode, and it has a next step. -/
theorem witness_InvKeptByEveryStep : small.Inv ∧ smallE.Inv ∧ (∃ t, step small = .next t) ∧ ∃ t, step smallE = .next t := by
  refine ⟨⟨fun _ => by decide, fun h => absurd h (by decide), ?_⟩, ⟨fun _ => by decide, fun _ => by decide, ?_⟩, ⟨_, rfl⟩, ⟨_, rfl⟩⟩ <;>
    unfold State.memoryInv <;> decide

theorem witness_RegisterWriters :
    (∃ t, exec .xce (start.setP 0x01) = .next t ∧ t.e ≠ (start.setP 0x01).e) ∧
    (∃ t, exec (.jsl 0x819000) start = .next t ∧ t.pbr ≠ start.pbr) ∧
    (∃ t, exec .plb (small.setSp 0x1FFC) = .next t ∧ t.dbr ≠ small.dbr) ∧
    ∃ t, exec .tcd (start.setC 0xFFFF) = .next t ∧ t.d ≠ start.d :=
  ⟨⟨_, rfl, by decide⟩, ⟨_, rfl, by decide⟩, ⟨_, rfl, by decide⟩, ⟨_, rfl, by decide⟩⟩

theorem witness_HiddenStateWriters :
    (∃ t, exec .stp start = .next t ∧ t.stopped ≠ start.stopped) ∧ ∃ t, exec .wai start = .next t ∧ t.waiting ≠ start.waiting :=
  ⟨⟨_, rfl, by decide⟩, ⟨_, rfl, by decide⟩⟩

theorem witness_HighByteOfAccumulatorKept :
    (small.setC 0x00FF).flag .m = true ∧ ∃ t, exec .xba (small.setC 0x00FF) = .next t ∧ hi8 t.c ≠ hi8 (small.setC 0x00FF).c :=
  ⟨by decide, _, rfl, by decide⟩

theorem witness_FlagWriters :
    (∃ t, exec .clv (start.setP 0x40) = .next t ∧ t.flag .v ≠ (start.setP 0x40).flag .v) ∧
    (∃ t, exec (.rep 0x20) small = .next t ∧ t.flag .m ≠ small.flag .m) ∧
    (∃ t, exec (.sep 0x10) start = .next t ∧ t.flag .x ≠ start.flag .x) ∧
    (∃ t, exec .sed start = .next t ∧ t.flag .d ≠ start.flag .d) ∧ ∃ t, exec .sei start = .next t ∧ t.flag .i ≠ start.flag .i :=
  ⟨⟨_, rfl, by decide⟩, ⟨_, rfl, by decide⟩, ⟨_, rfl, by decide⟩, ⟨_, rfl, by decide⟩, ⟨_, rfl, by decide⟩⟩

/-- The last byte, in native mode, in emulation mode with `DL = $01`, and with `DL = $00`: the clauses exclude each other. -/
theorem witness_OperandAddresses : 2 < 3 ∧ ¬ (start.e = true ∧ lo8 start.d = 0) ∧
    ¬ ((smallE.setD 0x0001).e = true ∧ lo8 (smallE.setD 0x0001).d = 0) ∧
    ((smallE.setD 0xFF00).e = true ∧ lo8 (smallE.setD 0xFF00).d = 0) := by decide

/-- Pointers at the end of a page (`$FF`), in emulation mode wrapping in it; with an index; of three bytes; on the stack. -/
theorem witness_PointerAddresses : 2 < 3 ∧
    smallE.sys.showsWord (((Mode.dp 0xFF).resolve smallE).1.addr 0) (((Mode.dp 0xFF).resolve smallE).1.addr 1) 0x1234 ∧
    (smallE.setX 0xFF).sys.showsWord (((Mode.dpX 0x00).resolve (smallE.setX 0xFF)).1.addr 0)
      (((Mode.dpX 0x00).resolve (smallE.setX 0xFF)).1.addr 1) 0x1234 ∧
    (small.sys.showsWord (addr24 0 (small.d + zext16 0xFE)) (addr24 0 (small.d + zext16 0xFE + 1)) 0x1234 ∧
      small.sys.peek (addr24 0 (small.d + zext16 0xFE + 2)) = some 0x7E) ∧
    (small.setSp 0x1EFE).sys.showsWord (((Mode.sr 0xFF).resolve (small.setSp 0x1EFE)).1.addr 0)
      (((Mode.sr 0xFF).resolve (small.setSp 0x1EFE)).1.addr 1) 0x4321 := by
  unfold System.showsWord; decide

theorem witness_OperandValues :
    small.sys.peek (((Mode.dp 0xFE).resolve small).1.addr 0) = some 0x34 ∧
    smallE.sys.showsWord (((Mode.abs 0x00FF).resolve smallE).1.addr 0) (((Mode.abs 0x00FF).resolve smallE).1.addr 1) 0x2134 := by
  unfold System.showsWord; decide

theorem witness_LdaLoads : ldaOf (.imm 0xFFFF) = some (.ldaImm 0xFFFF) ∧ ldaOf (.mem (.longX 0xFFFFFF)) = some (.ldaLongX 0xFFFFFF) :=
  ⟨rfl, rfl⟩

theorem witness_LdxLdyLoad : ldxOf (.mem (.dpY 0xFF)) = some (.ldxDpY 0xFF) ∧ ldyOf (.imm 0x0000) = some (.ldyImm 0x0000) := ⟨rfl, rfl⟩

/-- Each of the four stores, and an address whose bytes are the last of the low RAM and nothing at all. -/
theorem witness_StoresWriteOperand :
    staOf (.srIndY 0xFF) = some (.staSrIndY 0xFF) ∧ stxOf (.dpY 0xFF) = some (.stxDpY 0xFF) ∧
    styOf (.abs 0xFFFF) = some (.styAbs 0xFFFF) ∧ stzOf (.absX 0x1FFF) = some (.stzAbsX 0x1FFF) ∧
    (∀ k < 2, route start.sys.romMap (((Mode.absX 0x1FFF).resolve start).1.addr k) ≠ .io 0x420B) ∧
    route start.sys.romMap (((Mode.absX 0x1FFF).resolve start).1.addr 0) = .ram 0x7E1FFF := by
  refine ⟨rfl, rfl, rfl, rfl, ?_, ?_⟩ <;> decide

theorem witness_WordPushes : small.sys.showsWord (addr24 0 (small.d + zext16 0xFE)) (addr24 0 (small.d + zext16 0xFE + 1)) 0x1234 := by
  unfold System.showsWord; decide

/-- An 8-bit pull, one that wraps inside page 1, and a 16-bit pull. -/
theorem witness_RegisterPulls :
    (small.setSp 0x1FFC).wA = .w8 ∧ (small.setSp 0x1FFC).sys.peek ((small.setSp 0x1FFC).stackAbove 1) = some 0x21 ∧
    smallE.wX = .w8 ∧ smallE.sys.peek (smallE.stackAbove 1) = some 0x21 ∧
    ((small.setSp 0x1FFC).setP 0).wA = .w16 ∧ ((small.setSp 0x1FFC).setP 0).wX = .w16 ∧
    (small.setSp 0x1FFC).sys.showsWord ((small.setSp 0x1FFC).stackAbove 1) ((small.setSp 0x1FFC).stackAbove 2) 0x4321 := by
  unfold System.showsWord; decide

theorem witness_BankAndDirectPulls :
    (small.setSp 0x1FFC).sys.peek (addr24 0 ((small.setSp 0x1FFC).sp + 1)) = some 0x21 ∧
    (small.setSp 0x1FFC).sys.showsWord (addr24 0 ((small.setSp 0x1FFC).sp + 1)) (addr24 0 ((small.setSp 0x1FFC).sp + 2)) 0x4321 := by
  unfold System.showsWord; decide

theorem witness_PlpPullsStatus : smallE.sys.peek (smallE.stackAbove 1) = some 0x21 := by decide

/-- The lowest native stack of two bytes, and one that wraps inside page 1. -/
theorem witness_PushThenPull : (∀ k < 2, ∃ j, route start.sys.romMap ((start.setSp 1).stackBelow k) = .ram j) ∧
    ∀ k < 2, ∃ j, route smallE.sys.romMap ((smallE.setSp 0x0100).stackBelow k) = .ram j := by
  constructor <;> intro k hk <;> interval_cases k <;> exact ⟨_, rfl⟩

theorem witness_AdcAddsBinary : adcOf (.mem (.dpIndLongY 0xFF)) = some (.adcDpIndLongY 0xFF) ∧ start.flag .d = false := ⟨rfl, rfl⟩

theorem witness_SbcSubtractsBinary : sbcOf (.imm 0xFFFF) = some (.sbcImm 0xFFFF) ∧ start.flag .d = false := ⟨rfl, rfl⟩

/-- Packed BCD operands at both widths, 99 and 9999 the largest. -/
theorem witness_AdcAddsDecimal : adcOf (.imm 0x99) = some (.adcImm 0x99) ∧
    (∀ p ∈ [(0x38 : Byte), 0x08], ((start.setP p).setC 0x9999).flag .d = true ∧
      bcdValid (widthBits (start.setP p).wA / 4) (((start.setP p).setC 0x9999).acc (start.setP p).wA).toNat = true ∧
      bcdValid (widthBits (start.setP p).wA / 4) ((Source.imm 0x99).read (start.setP p).wA ((start.setP p).setC 0x9999)).1.toNat = true) := by
  decide

theorem witness_SbcSubtractsDecimal : sbcOf (.imm 0x01) = some (.sbcImm 0x01) ∧
    (∀ p ∈ [(0x38 : Byte), 0x08], ((start.setP p).setC 0x0000).flag .d = true ∧
      bcdValid (widthBits (start.setP p).wA / 4) (((start.setP p).setC 0x0000).acc (start.setP p).wA).toNat = true ∧
      bcdValid (widthBits (start.setP p).wA / 4) ((Source.imm 0x01).read (start.setP p).wA ((start.setP p).setC 0x0000)).1.toNat = true) := by
  decide

theorem witness_AdcSbcFrame : adcOf (.mem (.sr 0xFF)) = some (.adcSr 0xFF) ∧ sbcOf (.mem (.dpIndX 0xFF)) = some (.sbcDpIndX 0xFF) ∧
    small.wA = .w8 := ⟨rfl, rfl, rfl⟩

theorem witness_IncDecOperands : incOf .acc = some .incAcc ∧ incOf (.mem (.absX 0xFFFF)) = some (.incAbsX 0xFFFF) ∧
    decOf .acc = some .decAcc ∧ decOf (.mem (.dpX 0xFF)) = some (.decDpX 0xFF) := ⟨rfl, rfl, rfl, rfl⟩

theorem witness_LogicOnAccumulator : andOf (.imm 0xFFFF) = some (.andImm 0xFFFF) ∧ oraOf (.mem (.absY 0xFFFF)) = some (.oraAbsY 0xFFFF) ∧
    eorOf (.mem (.dpIndY 0xFF)) = some (.eorDpIndY 0xFF) ∧ small.wA = .w8 ∧ 15 < widthBits start.wA := by decide

theorem witness_BitTestsOperand : (bitOf (.imm 0x8000) = some (.bitImm 0x8000) ∧ (Source.imm 0x8000).isImm = true) ∧
    bitOf (.mem (.absX 0xFFFF)) = some (.bitAbsX 0xFFFF) ∧ (Source.mem (.absX 0xFFFF)).isImm = false := ⟨⟨rfl, rfl⟩, rfl, rfl⟩

theorem witness_TestAndResetOrSet : trbOf (.dp 0xFF) = some (.trbDp 0xFF) ∧ tsbOf (.abs 0x1FFF) = some (.tsbAbs 0x1FFF) := ⟨rfl, rfl⟩

/-- The four kinds, on the accumulator and in memory, with the value and the carry each premise gives. -/
theorem witness_ShiftsAndRotates :
    (aslOf .acc = some .aslAcc ∧ 0 = (Place.acc.value .w16 (start.setC 0x8000)).toNat * 2 % 2 ^ 16 ∧
      true = msb .w16 (Place.acc.value .w16 (start.setC 0x8000))) ∧
    (lsrOf .acc = some .lsrAcc ∧ 0 = (Place.acc.value .w16 (start.setC 0x0001)).toNat / 2 ∧
      true = (Place.acc.value .w16 (start.setC 0x0001)).getLsbD 0) ∧
    (rolOf (.mem (.abs 0)) = some (.rolAbs 0) ∧ 1 = ((Place.mem (.abs 0)).value .w16 (start.setP 1)).toNat * 2 % 2 ^ 16 +
      ((start.setP 1).flag .c).toNat ∧ false = msb .w16 ((Place.mem (.abs 0)).value .w16 (start.setP 1))) ∧
    (rorOf (.mem (.dpX 0xFF)) = some (.rorDpX 0xFF) ∧ 0x8000 = ((Place.mem (.dpX 0xFF)).value .w16 (start.setP 1)).toNat / 2 +
      ((start.setP 1).flag .c).toNat * 2 ^ 15 ∧ false = ((Place.mem (.dpX 0xFF)).value .w16 (start.setP 1)).getLsbD 0) := by decide

/-- A branch taken and one not, at the largest displacements. -/
theorem witness_BranchesTaken : (Instr.beq 0x80 = .beq 0x80 ∧ true = (start.setP 2).flag .z) ∧ (Instr.beq 0x7F = .beq 0x7F ∧ false = start.flag .z) :=
  ⟨⟨rfl, rfl⟩, rfl, rfl⟩

/-- Pointers at the end of bank 0, and in the program bank. -/
theorem witness_JumpTargets :
    (fill 0x00FFFF [0x34] smallE).sys.showsWord (addr24 0 0xFFFF) (addr24 0 (0xFFFF + 1)) 0x1234 ∧
    small.sys.showsWord (addr24 small.pbr (0x00FE + small.x)) (addr24 small.pbr (0x00FE + small.x + 1)) 0x1234 ∧
    small.sys.showsWord (addr24 0 0x00FE) (addr24 0 (0x00FE + 1)) 0x1234 ∧ small.sys.peek (addr24 0 (0x00FE + 2)) = some 0x7E := by
  unfold System.showsWord; decide

theorem witness_CallsPushReturnAddress : ∃ t, exec (.jsrAbsIndX 0x00FE) small = .next t ∧
    t.sys.showsWord (addr24 small.pbr (0x00FE + small.x)) (addr24 small.pbr (0x00FE + small.x + 1)) 0x1234 :=
  ⟨_, rfl, by unfold System.showsWord; decide⟩

theorem witness_ReturnsPullAddress :
    smallE.sys.showsWord (smallE.stackAbove 1) (smallE.stackAbove 2) 0x4321 ∧
    (small.setSp 0x1FFC).sys.showsWord (addr24 0 ((small.setSp 0x1FFC).sp + 1)) (addr24 0 ((small.setSp 0x1FFC).sp + 2)) 0x4321 ∧
    (small.setSp 0x1FFC).sys.peek (addr24 0 ((small.setSp 0x1FFC).sp + 3)) = some 0x65 := by
  unfold System.showsWord; decide

theorem witness_CallThenReturn : start.e = false ∧ ∀ k < 3, ∃ j, route start.sys.romMap ((start.setSp 2).stackBelow k) = .ram j :=
  ⟨rfl, fun k hk => by interval_cases k <;> exact ⟨_, rfl⟩⟩

theorem witness_CompareFlags : cmpOf (.imm 0xFFFF) = some (.cmpImm 0xFFFF) ∧ cpxOf (.mem (.abs 0xFFFF)) = some (.cpxAbs 0xFFFF) ∧
    cpyOf (.mem (.dp 0xFF)) = some (.cpyDp 0xFF) := ⟨rfl, rfl, rfl⟩

/-- XCE into emulation mode, REP of every bit, SEP of the index bit alone. -/
theorem witness_ModeAndStatusBits : (Instr.xce = .xce ∧ true = (start.setP 1).flag .c) ∧ Instr.rep 0xFF = .rep 0xFF ∧
    Instr.sep 0x10 = .sep 0x10 := ⟨⟨rfl, rfl⟩, rfl, rfl⟩

/-- R447 (b), (c): ends of a run with quiet samples still to come and, in the loop, a product still on its way. -/
theorem test_R447 :
    ((start.setWaiting true).setInputs [⟨false, false, false⟩]).waitsForever ∧
    (((start.setP 0x04).setSys { start.sys with rdmpyWait := 3 }).setInputs [⟨false, true, false⟩, ⟨false, false, false⟩] |>.placeBytes 0
      [0x80, 0xFE]).loopsForever := by
  refine ⟨⟨rfl, rfl, .inl rfl, fun i hi => ?_⟩, rfl, rfl, ⟨rfl, .inr rfl, fun i hi => ?_⟩, rfl⟩
  · rw [List.mem_singleton.1 hi]; exact ⟨rfl, rfl, .inl rfl⟩
  · exact ⟨by fin_cases hi <;> rfl, by fin_cases hi <;> rfl, .inr rfl⟩

theorem witness_FlagInstructions : (Instr.clv, (0xB8 : Byte), Flag.v, false) ∈
    [(Instr.clc, (0x18 : Byte), Flag.c, false), (.sec, 0x38, .c, true), (.cli, 0x58, .i, false), (.sei, 0x78, .i, true),
      (.cld, 0xD8, .d, false), (.sed, 0xF8, .d, true), (.clv, 0xB8, .v, false)] := by decide

/-- After either software interrupt, in each mode, the vector still stands in ROM. -/
theorem witness_SoftwareInterrupts :
    (∃ t, exec (.brk 0xFF) (fill 0x00FFE6 [0x00, 0x90] start) = .next t ∧
      t.sys.showsWord (addr24 0 (vectorOffset .brk false)) (addr24 0 (vectorOffset .brk false + 1)) 0x9000) ∧
    ∃ t, exec (.cop 0x00) (fill 0x00FFF4 [0x00, 0x90] smallE) = .next t ∧
      t.sys.showsWord (addr24 0 (vectorOffset .cop true)) (addr24 0 (vectorOffset .cop true + 1)) 0x9000 :=
  ⟨⟨_, rfl, by unfold System.showsWord; decide⟩, ⟨_, rfl, by unfold System.showsWord; decide⟩⟩

/-- An NMI with the mask set, both requests at once, and an IRQ that ends a wait. -/
theorem witness_HardwareInterrupts :
    (let s := (start.setP 0x04).setInputs [⟨true, true, false⟩];
      s.resetRequested = false ∧ s.stopped = false ∧ s.sample.nmiPending = true) ∧
    (let s := (start.setWaiting true).setInputs [⟨false, true, false⟩];
      s.resetRequested = false ∧ s.stopped = false ∧ s.sample.nmiPending = false ∧ s.sample.irqLine = true ∧ s.flag .i = false) := by
  decide

/-- A frame of three bytes at the edge of page 1, and one of four bytes in native mode. -/
theorem witness_RtiRestores :
    (smallE.e = true ∧ hi8 smallE.sp = 1 ∧ smallE.sys.peek (smallE.stackAbove 1) = some 0x21 ∧
      smallE.sys.showsWord (smallE.stackAbove 2) (smallE.stackAbove 3) 0x6543) ∧
    (small.setSp 0x1FFB).e = false ∧ (small.setSp 0x1FFB).sys.peek ((small.setSp 0x1FFB).stackAbove 4) = some 0x65 := by
  unfold System.showsWord; decide

theorem witness_InterruptThenRti :
    let s := (small.setSp 0x0003).setInputs [⟨true, false, false⟩]
    s.e = false ∧ s.indexInv ∧ s.resetRequested = false ∧ s.stopped = false ∧ s.sample.nmiPending = true ∧
      ∀ k < 4, ∃ j, route s.sys.romMap (s.stackBelow k) = .ram j :=
  ⟨rfl, fun _ => by decide, rfl, rfl, rfl, fun k hk => by interval_cases k <;> exact ⟨_, rfl⟩⟩

theorem witness_StoppedAndWaiting :
    (let s := (start.setStopped true).setInputs [⟨true, true, false⟩];
      s.resetRequested = false ∧ s.stopped = true) ∧
    (let s := start.setWaiting true;
      s.resetRequested = false ∧ s.stopped = false ∧ s.waiting = true ∧ s.sample.nmiPending = false ∧ s.sample.irqLine = false) ∧
    (let s := ((start.setP 0x04).setWaiting true).setInputs [⟨false, true, false⟩];
      s.resetRequested = false ∧ s.stopped = false ∧ s.waiting = true ∧ s.sample.nmiPending = false ∧ s.sample.irqLine = true ∧
        s.flag .i = true) := by decide

/-- Either move, of a byte the source shows. -/
theorem witness_BlockMoveByte : (Instr.mvn 0x7F 0x7E = .mvn 0x7F 0x7E ∧ (1 : Int) = 1) ∧ (Instr.mvp 0x7E 0x7E = .mvp 0x7E 0x7E ∧ (-1 : Int) = -1) ∧
    (small.setX 0x00FF).sys.peek (addr24 0x7E (small.setX 0x00FF).x) = some 0x12 := by decide

theorem witness_WholeBlockMove : (Instr.mvp 0x7F 0x7E = .mvp 0x7F 0x7E ∧ (-1 : Int) = -1) ∧ 0 < (start.setC 0x0000).c.toNat + 1 := by decide

/-- Both ends of both runs of system banks, the last offset of the low RAM and the first of ROM. -/
theorem witness_RamAndRom : (0x3F : Byte).toNat < 0x40 ∧ (0x80 ≤ (0xBF : Byte).toNat ∧ (0xBF : Byte).toNat < 0xC0) ∧
    (0x1FFF : Word).toNat < 0x2000 ∧ 0x8000 ≤ (0x8000 : Word).toNat ∧ route System.reset.romMap 0x7FFFFF = .ram 0x7FFFFF ∧
    route System.reset.romMap 0x008000 = .rom 0x008000 := by decide

/-- A platform register, an unused address, and a bank no memory answers in. -/
theorem witness_BusAccessesRecorded : System.reset.cell 0x002100 = none ∧ route System.reset.romMap 0x002100 ≠ .io 0x420B ∧
    route System.reset.romMap 0x002100 = .io 0x2100 ∧ System.reset.cell 0x002000 = none ∧ System.reset.cell 0xFFFFFF = none := by decide

theorem witness_MultiplierAndDivider : 5 ≤ 5 ∧ 9 ≤ 9 ∧
    System.tickMath^[5] (System.reset.write8 0x004203 0xFF) = System.tickMath^[5] (System.reset.write8 0x004203 0xFF) :=
  ⟨by decide, by decide, rfl⟩

/-- Three bytes of RAM to the port, on channel 0. -/
theorem witness_DmaToPort : 0 < 8 ∧ (1 : Byte) = BitVec.twoPow 8 0 ∧
    ((dmaReady.store8 0x00420B 1).dmaChannel 0).toCpu = false ∧ ((dmaReady.store8 0x00420B 1).dmaChannel 0).count = 3 ∧
    ∀ i < 3, (dmaReady.cell (((dmaReady.store8 0x00420B 1).dmaChannel 0).cpuSide i)).isSome = true := by decide

end Sys2Proof.Tests
end

section
/-! The transfers (R177 to R188). Each is: write the destination, `SetNZ` where flags are written, go on to the next instruction. The
lemmas say once what the last two do and what the width means for the destination; O22 and O23 are then one line per mnemonic. -/

namespace Sys2Proof.Machine

variable {s t : State}

/-- The index width as a choice on `P.x` (R12, R32). -/
theorem trunc_wX (s : State) (v : Word) : trunc s.wX v = if s.flag .x then zext16 (lo8 v) else v := by
  cases hx : s.flag .x <;> simp [State.wX, hx]

/-- Writing the accumulator at its width writes `C` alone, and at 8 bits keeps `B` (R12, R20, R31). -/
theorem State.setAcc_wA_eq_setC (s : State) (v : Word) :
    s.setAcc s.wA v = s.setC (if s.flag .m then join16 (hi8 s.c) (lo8 v) else v) := by
  cases hm : s.flag .m <;> simp [State.wA, State.setAcc, hm]

/-- N and Z look only at the bits of the value inside the width. -/
theorem State.setsNZ_trunc {w : Width} {v : Word} : s.setsNZ t w (trunc w v) ↔ s.setsNZ t w v := by
  simp [State.setsNZ]

/-- How an instruction ends that has written its destination, with `P` still that of `s`: the flags are those of `SetNZ` on `s`. -/
theorem State.setsNZ_setNZ_advance {u : State} (hp : u.p = s.p) (w : Width) (v : Word) (n : Nat) :
    s.setsNZ ((u.setNZ w v).advance n) w v :=
  State.setsNZ_of (by rw [State.advance_p, State.setNZ_p_congr hp])

/-- A transfer to an index register from a 16-bit register: N and Z are those of the value it then holds, `trunc w v`. -/
theorem State.setsNZ_trunc_setNZ_advance {u : State} (hp : u.p = s.p) (w : Width) (v : Word) (n : Nat) :
    s.setsNZ ((u.setNZ w v).advance n) w (trunc w v) :=
  State.setsNZ_trunc.mpr (State.setsNZ_setNZ_advance hp w v n)

/-- TXA as a write of `C` (R179). -/
theorem State.opTxa_eq (s : State) :
    s.opTxa = ((s.setC (if s.flag .m then join16 (hi8 s.c) (lo8 s.x) else s.x)).setNZ s.wA s.x).advance 1 := by
  rw [State.opTxa, State.setAcc_wA_eq_setC]

/-- TYA as a write of `C` (R180). -/
theorem State.opTya_eq (s : State) :
    s.opTya = ((s.setC (if s.flag .m then join16 (hi8 s.c) (lo8 s.y) else s.y)).setNZ s.wA s.y).advance 1 := by
  rw [State.opTya, State.setAcc_wA_eq_setC]

/-- Settles O22: per mnemonic, the state it answers, the value at the destination's width, the flags, and the frame. -/
theorem transfersToIndexAndAccumulator : Obligations.TransfersToIndexAndAccumulator := by
  refine ⟨rfl, rfl, rfl, rfl, rfl, rfl, rfl, fun s => ⟨?tax, ?tay, ?txa, ?tya, ?txy, ?tyx, ?tsx⟩⟩
  case tax => exact ⟨s.opTax, rfl, trunc_wX s s.c, State.setsNZ_trunc_setNZ_advance rfl s.wX s.c 1, rfl⟩
  case tay => exact ⟨s.opTay, rfl, trunc_wX s s.c, State.setsNZ_trunc_setNZ_advance rfl s.wX s.c 1, rfl⟩
  case txa => exact ⟨_, congrArg Host.Outcome.next s.opTxa_eq, rfl, State.setsNZ_setNZ_advance rfl s.wA s.x 1, rfl⟩
  case tya => exact ⟨_, congrArg Host.Outcome.next s.opTya_eq, rfl, State.setsNZ_setNZ_advance rfl s.wA s.y 1, rfl⟩
  case txy => exact ⟨s.opTxy, rfl, rfl, State.setsNZ_setNZ_advance rfl s.wX s.x 1, rfl⟩
  case tyx => exact ⟨s.opTyx, rfl, rfl, State.setsNZ_setNZ_advance rfl s.wX s.y 1, rfl⟩
  case tsx => exact ⟨s.opTsx, rfl, trunc_wX s s.sp, State.setsNZ_trunc_setNZ_advance rfl s.wX s.sp 1, rfl⟩

/-- Settles O23: the first three end in `SetNZ` at 16 bits; TCS and TXS write `S` and `PC` and nothing else, in either mode. -/
theorem transfersWithDAndS : Obligations.TransfersWithDAndS := by
  refine ⟨rfl, rfl, rfl, rfl, rfl, fun s => ⟨?tcd, ?tdc, ?tsc, ?tcs, ?txs⟩⟩
  case tcd => exact ⟨s.opTcd, rfl, rfl, State.setsNZ_setNZ_advance rfl .w16 s.c 1, rfl⟩
  case tdc => exact ⟨s.opTdc, rfl, rfl, State.setsNZ_setNZ_advance rfl .w16 s.d 1, rfl⟩
  case tsc => exact ⟨s.opTsc, rfl, rfl, State.setsNZ_setNZ_advance rfl .w16 s.sp 1, rfl⟩
  case tcs => rfl
  case txs => rfl

end Sys2Proof.Machine
end

section
/-! Counting an index register (R235, R236, R238, R239): the exact count is `toNat_incValue` and `toNat_decValue`, and the instruction
ends as a transfer does, in `SetNZ` and the next `PC`. -/

namespace Sys2Proof.Machine

/-- Settles O36: per mnemonic, the state it answers, the count modulo `2^wX`, the flags of the new value, and the frame. -/
theorem indexCounting : Obligations.IndexCounting := by
  refine ⟨rfl, rfl, rfl, rfl, fun s => ⟨?inx, ?iny, ?dex, ?dey⟩⟩
  case inx => exact ⟨s.opInx, rfl, toNat_incValue s.wX s.x, State.setsNZ_setNZ_advance rfl s.wX (incValue s.wX s.x) 1, rfl⟩
  case iny => exact ⟨s.opIny, rfl, toNat_incValue s.wX s.y, State.setsNZ_setNZ_advance rfl s.wX (incValue s.wX s.y) 1, rfl⟩
  case dex => exact ⟨s.opDex, rfl, toNat_decValue s.wX s.x, State.setsNZ_setNZ_advance rfl s.wX (decValue s.wX s.x) 1, rfl⟩
  case dey => exact ⟨s.opDey, rfl, toNat_decValue s.wX s.y, State.setsNZ_setNZ_advance rfl s.wX (decValue s.wX s.y) 1, rfl⟩

end Sys2Proof.Machine
end

section
/-! The ten branches (R280 to R290). Nine are `State.branch`, each with its own condition, and BRL is `State.branchLong`; the arithmetic of
the target (R154, R155) is said once, for a displacement of 16 bits. -/

namespace Sys2Proof.Machine

/-- A signed displacement added to a program counter, modulo 65536: the target wraps inside the bank (R154, R155, R280). -/
theorem toNat_add_add_disp (pc len disp : Word) :
    ((pc + len + disp).toNat : Int) = (pc.toNat + len.toNat + disp.toInt) % 65536 := by
  have hdisp : disp.toInt % 65536 = disp.toNat := by rw [BitVec.toInt_eq_toNat_cond]; split <;> omega
  simp only [BitVec.toNat_add]
  omega

/-- Extending a displacement byte to 16 bits keeps the number it stands for (R10, R154). -/
@[simp] theorem toInt_sext16 (o : Byte) : (sext16 o).toInt = o.toInt :=
  BitVec.toInt_signExtend_of_le (by decide)

/-- Where a branch goes, taken or not (R154, R280). -/
theorem State.toNat_branch_pc (s : State) (taken : Bool) (o : Byte) :
    ((s.branch taken o).pc.toNat : Int) = if taken then (s.pc.toNat + 2 + o.toInt) % 65536 else (s.pc.toNat + 2) % 65536 := by
  cases taken with
  | true => simpa [State.branch] using toNat_add_add_disp s.pc 2 (sext16 o)
  | false => simp [State.branch, State.advance]

/-- Where BRL goes (R155, R290). -/
theorem State.toNat_branchLong_pc (s : State) (disp : Word) :
    ((s.branchLong disp).pc.toNat : Int) = (s.pc.toNat + 3 + disp.toInt) % 65536 :=
  toNat_add_add_disp s.pc 3 disp

/-- The frame of a branch: the state it answers is `s` but for `PC` (R280). -/
theorem State.branch_frame (s : State) (taken : Bool) (o : Byte) :
    s.branch taken o = { s with pc := (s.branch taken o).pc } := by
  obtain ⟨pc, h⟩ := s.branch_eq taken o
  rw [h]; rfl

/-- Settles O41: by its condition each of the nine short branches runs `State.branch`; target and frame are then those of `State.branch`
and, for BRL, of `State.branchLong`. -/
theorem branchesTaken : Obligations.BranchesTaken := by
  refine ⟨fun _ => ⟨rfl, rfl, rfl, rfl, rfl, rfl, rfl, rfl, rfl⟩, fun _ => rfl, fun s o i taken hi => ?short, fun s disp => ?long⟩
  case short =>
    have hrun : exec i s = .next (s.branch taken o) := by
      obtain ⟨rfl, rfl⟩ | ⟨rfl, rfl⟩ | ⟨rfl, rfl⟩ | ⟨rfl, rfl⟩ | ⟨rfl, rfl⟩ | ⟨rfl, rfl⟩ | ⟨rfl, rfl⟩ | ⟨rfl, rfl⟩ |
        ⟨rfl, rfl⟩ := hi <;> rfl
    exact ⟨s.branch taken o, hrun, s.branch_frame taken o, s.toNat_branch_pc taken o⟩
  case long => exact ⟨s.branchLong disp, rfl, rfl, s.toNat_branchLong_pc disp⟩

end Sys2Proof.Machine
end

section
/-! Decoding and encoding (R100 to R116). An instruction is its opcode and its operand; the operand is one of seven layouts (R102), so what
is to be said about bytes is said once per layout, and the only facts about all 256 instructions are the four just below. -/

namespace Sys2Proof

/-- The operand the decoder finds in the raw bytes, in the same layout (R105 to R112). -/
def Payload.readFrom (r : RawOperand) : Payload → Payload
  | .f0 => .f0
  | .f8 _ => .f8 r.o8
  | .f16 _ => .f16 r.o16
  | .f24 _ => .f24 r.o24
  | .fm _ => .fm r.immM
  | .fx _ => .fx r.immX
  | .fbm _ _ => .fbm r.o8 r.o8b

/-- The operand fits the width that the flags give it (R105). -/
def Payload.fits (m x : Bool) : Payload → Bool
  | .fm v => immFits m v
  | .fx v => immFits x v
  | _ => true

/-- The raw operand that three bytes are. -/
def RawOperand.ofBytes (m x : Bool) (bytes : List Byte) : RawOperand := ⟨m, x, bytes.getD 0 0, bytes.getD 1 0, bytes.getD 2 0⟩

/-! ### The facts about all instructions -/

/-- Well-formed is a matter of the operand alone (R119). -/
theorem Instr.wf_eq_fits (m x : Bool) (i : Instr) : i.wf m x = i.payload.fits m x := by cases i <;> rfl

/-- The opcode selects the layout of the instruction, and the bytes after it the operand (R102, R113). -/
theorem payload_decodeRaw (i : Instr) (r : RawOperand) : (decodeRaw i.opcode r).payload = i.payload.readFrom r := by
  cases i <;> dsimp only [Instr.opcode] <;> rfl

/-- The opcode and the operand select the instruction (R113). -/
theorem decodeRaw_opcode {i : Instr} {r : RawOperand} (h : i.payload.readFrom r = i.payload) : decodeRaw i.opcode r = i := by
  cases i <;> cases h <;> dsimp only [Instr.opcode] <;> rfl

/-- What an opcode byte selects has that opcode (R113). -/
theorem opcode_decodeRaw (op : Byte) (r : RawOperand) : (decodeRaw op r).opcode = op := by
  have hmap : ∀ n < 256, (decodeRaw (BitVec.ofNat 8 n) r).opcode = BitVec.ofNat 8 n := by
    intro n hn
    interval_cases n <;> rfl
  simpa using hmap op.toNat op.isLt

/-! ### Layouts -/

theorem immFits_iff (flag : Bool) (v : Word) : immFits flag v = true ↔ (flag = true → v.toNat < 256) := by
  cases flag <;> simp [immFits]

/-- An immediate that fits its width is what its bytes read back as (R105). -/
theorem zext16_lo8_of_fits {v : Word} (h : v.toNat < 256) : zext16 (lo8 v) = v :=
  BitVec.eq_of_toNat_eq (by rw [Machine.toNat_zext16, Machine.toNat_lo8, Nat.mod_eq_of_lt h])

theorem Payload.readFrom_length (m x : Bool) (r : RawOperand) (p : Payload) : (p.readFrom r).length m x = p.length m x := by
  cases p <;> rfl

theorem Payload.length_bytes (m x : Bool) (p : Payload) : (p.bytes m x).length + 1 = p.length m x := by
  cases p with
  | fm v => cases m <;> rfl
  | fx v => cases x <;> rfl
  | _ => rfl

theorem Payload.length_bounds (m x : Bool) (p : Payload) : 1 ≤ p.length m x ∧ p.length m x ≤ 4 := by
  cases p with
  | fm v => cases m <;> simp [Payload.length]
  | fx v => cases x <;> simp [Payload.length]
  | _ => simp [Payload.length]

/-- An operand that fits is read back from its own bytes, whatever follows them (R105, R109 to R111). -/
theorem Payload.readFrom_bytes {m x : Bool} {p : Payload} (h : p.fits m x = true) (rest : List Byte) :
    p.readFrom (.ofBytes m x (p.bytes m x ++ rest)) = p := by
  cases p with
  | fm v =>
    cases m
    · exact congrArg Payload.fm (Machine.join16_hi_lo v)
    · exact congrArg Payload.fm (zext16_lo8_of_fits ((immFits_iff true v).mp h rfl))
  | fx v =>
    cases x
    · exact congrArg Payload.fx (Machine.join16_hi_lo v)
    · exact congrArg Payload.fx (zext16_lo8_of_fits ((immFits_iff true v).mp h rfl))
  | f16 v => exact congrArg Payload.f16 (Machine.join16_hi_lo v)
  | f24 a =>
    have : addr24 a.bank (join16 (hi8 a.off) (lo8 a.off)) = a := by simp
    exact congrArg Payload.f24 this
  | _ => rfl

/-- An operand read from raw bytes fits: a one-byte immediate is below 256 (R105). -/
theorem Payload.readFrom_fits (r : RawOperand) (p : Payload) : (p.readFrom r).fits r.m r.x = true := by
  have hlt (b : Byte) : (zext16 b).toNat < 256 := by rw [Machine.toNat_zext16]; exact b.isLt
  cases p with
  | fm v => exact (immFits_iff _ _).mpr fun h => by simpa [RawOperand.immM, h] using hlt r.b1
  | fx v => exact (immFits_iff _ _).mpr fun h => by simpa [RawOperand.immX, h] using hlt r.b1
  | _ => rfl

/-- The bytes of an operand read from three bytes are the first of those three. -/
theorem Payload.bytes_readFrom (r : RawOperand) (p : Payload) :
    (p.readFrom r).bytes r.m r.x = [r.b1, r.b2, r.b3].take (p.length r.m r.x - 1) := by
  cases p with
  | fm v => cases hm : r.m <;> simp [Payload.readFrom, Payload.bytes, Payload.length, RawOperand.immM, RawOperand.o16, bytes16, hm]
  | fx v => cases hx : r.x <;> simp [Payload.readFrom, Payload.bytes, Payload.length, RawOperand.immX, RawOperand.o16, bytes16, hx]
  | _ => simp [Payload.readFrom, Payload.bytes, Payload.length, RawOperand.o8, RawOperand.o8b, RawOperand.o16, RawOperand.o24, bytes16]

/-! ### The decoder -/

/-- The length the opcode gives is the length of the instruction's own layout (R103). -/
theorem opcodeLength_opcode (m x : Bool) (i : Instr) : opcodeLength m x i.opcode = i.payload.length m x := by
  rw [opcodeLength, payload_decodeRaw, Payload.readFrom_length]

theorem opcodeLength_bounds (m x : Bool) (op : Byte) : 1 ≤ opcodeLength m x op ∧ opcodeLength m x op ≤ 4 :=
  Payload.length_bounds m x _

/-- Decoding when the opcode's operand bytes are all there. -/
theorem decode_cons {m x : Bool} {op : Byte} {rest : List Byte} (h : opcodeLength m x op ≤ rest.length + 1) :
    decode m x (op :: rest) = .ok (decodeRaw op (.ofBytes m x rest), rest.drop (opcodeLength m x op - 1)) :=
  if_neg (Nat.not_lt.mpr h)

/-- Settles O4: the encoding's operand bytes are as many as the opcode calls for, and the operand is read back from them. -/
theorem encodedInstructionsDecode : Obligations.EncodedInstructionsDecode := by
  intro m x i rest hwf
  rw [Instr.wf_eq_fits] at hwf
  have hlen : opcodeLength m x i.opcode = (i.payload.bytes m x).length + 1 :=
    (opcodeLength_opcode m x i).trans (i.payload.length_bytes m x).symm
  have hread : decodeRaw i.opcode (.ofBytes m x (i.payload.bytes m x ++ rest)) = i :=
    decodeRaw_opcode (Payload.readFrom_bytes hwf rest)
  rw [encode, List.cons_append, decode_cons (by simp [hlen]), hread, hlen, Nat.add_sub_cancel, List.drop_left]

/-- What an opcode and three bytes decode to is well-formed (R119). -/
theorem wf_decodeRaw (op : Byte) (r : RawOperand) : (decodeRaw op r).wf r.m r.x = true := by
  have h := payload_decodeRaw (decodeRaw op r) r
  rw [opcode_decodeRaw] at h
  rw [Instr.wf_eq_fits, h]
  exact Payload.readFrom_fits _ _

/-- What an opcode and three bytes decode to has as encoding the opcode and as many of the three as its length says (R116). -/
theorem encode_decodeRaw (op : Byte) (r : RawOperand) :
    encode r.m r.x (decodeRaw op r) = op :: [r.b1, r.b2, r.b3].take (opcodeLength r.m r.x op - 1) := by
  have hp := payload_decodeRaw (decodeRaw op r) r
  have hl := opcodeLength_opcode r.m r.x (decodeRaw op r)
  rw [opcode_decodeRaw] at hp hl
  rw [encode, opcode_decodeRaw, hl, hp, Payload.bytes_readFrom, Payload.readFrom_length]

/-- Settles O5: four bytes are always enough, and the instruction's encoding is the opcode and the operand bytes it took. -/
theorem everyByteSequenceDecodes : Obligations.EveryByteSequenceDecodes := by
  intro m x bytes hlen
  obtain ⟨op, b1, b2, b3, rest, rfl⟩ : ∃ op b1 b2 b3 rest, bytes = op :: b1 :: b2 :: b3 :: rest := by
    match bytes, hlen with
    | op :: b1 :: b2 :: b3 :: rest, _ => exact ⟨op, b1, b2, b3, rest, rfl⟩
  obtain ⟨hpos, hle⟩ := opcodeLength_bounds m x op
  refine ⟨_, _, decode_cons (by simp; omega), wf_decodeRaw op ⟨m, x, b1, b2, b3⟩, ?_⟩
  have henc := encode_decodeRaw op ⟨m, x, b1, b2, b3⟩
  have hsplit := List.take_append_drop (opcodeLength m x op - 1) (b1 :: b2 :: b3 :: rest)
  have htake : (b1 :: b2 :: b3 :: rest).take (opcodeLength m x op - 1) = [b1, b2, b3].take (opcodeLength m x op - 1) :=
    List.take_append_of_le_length (l₁ := [b1, b2, b3]) (by simp; omega)
  rw [htake] at hsplit
  exact (congrArg (op :: ·) hsplit).symm.trans (congrArg (· ++ _) henc.symm)

/-- An instruction whose length depends on the flags is one of the twelve immediates (R103, R115). -/
theorem opcode_mem_of_length_ne {m x m' x' : Bool} {i : Instr} (h : i.payload.length m x ≠ i.payload.length m' x') :
    i.opcode ∈ [(0x09 : Byte), 0x29, 0x49, 0x69, 0x89, 0xA9, 0xC9, 0xE9, 0xA0, 0xA2, 0xC0, 0xE0] := by
  cases i <;> first | exact absurd rfl h | simp [Instr.opcode]

/-- Settles O6: the lengths are those of the layouts, and the flags' immediates are looked up in the opcode map. -/
theorem opcodeLengths : Obligations.OpcodeLengths := by
  refine ⟨opcodeLength_bounds, fun m x op hop => ?_, fun m x op hop => ?_, fun op m x m' x' hne => ?_⟩
  · simp only [List.mem_cons, List.not_mem_nil, or_false] at hop
    obtain rfl | rfl | rfl | rfl | rfl | rfl | rfl | rfl := hop <;> rfl
  · simp only [List.mem_cons, List.not_mem_nil, or_false] at hop
    obtain rfl | rfl | rfl | rfl := hop <;> rfl
  · rw [← opcode_decodeRaw op ⟨m, x, 0, 0, 0⟩] at hne ⊢
    rw [opcodeLength_opcode, opcodeLength_opcode] at hne
    exact opcode_mem_of_length_ne hne

/-- Settles O7. -/
theorem exampleWordsDecode : Obligations.ExampleWordsDecode := ⟨rfl, rfl, rfl, rfl, rfl, rfl, rfl⟩

end Sys2Proof
end

section
/-! Which instructions can change which part of the state (R20, R30 to R34, R38, R44, R46 to R48). `exec_case_of_next` gives the state an
instruction leaves; the cases named below are those that write the part in question, and in all the others the fields of that state are
those of `s` by the frames of the shared operations. -/

namespace Sys2Proof.Machine

variable {i : Instr} {s t : State}

/-- A short branch as one update of `PC` (R280). -/
theorem State.branch_eq_setPc (s : State) (taken : Bool) (disp : Byte) :
    s.branch taken disp = s.setPc (if taken then s.pc + 2 + sext16 disp else s.pc + 2) := by
  unfold State.branch; split <;> rfl

/-- An exception writes I and D and no other flag (R380). -/
theorem State.flag_interrupt (s : State) (kind : InterruptKind) (ret : Word) (f : Flag) :
    (s.interrupt kind ret).flag f = if f = .d then false else if f = .i then true else s.flag f := by
  simp [State.interrupt, State.enterHandler_flag]

/-- Which instructions can have changed a register, a flag or the hidden state, `t` being what executing `i` from `s` left. -/
def State.WrittenBy (s : State) (i : Instr) (t : State) : Prop :=
  (t.e ≠ s.e → i = .xce) ∧
  (t.pbr ≠ s.pbr → (∃ a, i = .jmlLong a) ∨ (∃ a, i = .jmlAbsIndLong a) ∨ (∃ a, i = .jsl a) ∨ i = .rtl ∨
      (i = .rti ∧ s.e = false) ∨ (∃ g, i = .brk g) ∨ ∃ g, i = .cop g) ∧
  (t.dbr ≠ s.dbr → i = .plb ∨ (∃ a b, i = .mvn a b) ∨ ∃ a b, i = .mvp a b) ∧
  (t.d ≠ s.d → i = .tcd ∨ i = .pld) ∧
  (t.stopped ≠ s.stopped → i = .stp) ∧
  (t.waiting ≠ s.waiting → i = .wai) ∧
  t.nmiPending = s.nmiPending ∧ t.irqLine = s.irqLine ∧ t.inputs = s.inputs ∧
  (t.flag .v ≠ s.flag .v → (∃ q, adcOf q = some i) ∨ (∃ q, sbcOf q = some i) ∨ (∃ q, bitOf (.mem q) = some i) ∨ i = .clv ∨
      (∃ k, i = .rep k) ∨ (∃ k, i = .sep k) ∨ i = .plp ∨ i = .rti) ∧
  (t.flag .m ≠ s.flag .m → (∃ k, i = .rep k) ∨ (∃ k, i = .sep k) ∨ i = .plp ∨ i = .rti ∨ i = .xce) ∧
  (t.flag .x ≠ s.flag .x → (∃ k, i = .rep k) ∨ (∃ k, i = .sep k) ∨ i = .plp ∨ i = .rti ∨ i = .xce) ∧
  (t.flag .d ≠ s.flag .d → i = .cld ∨ i = .sed ∨ (∃ k, i = .rep k) ∨ (∃ k, i = .sep k) ∨ i = .plp ∨ i = .rti ∨
      (∃ g, i = .brk g) ∨ ∃ g, i = .cop g) ∧
  (t.flag .i ≠ s.flag .i → i = .cli ∨ i = .sei ∨ (∃ k, i = .rep k) ∨ (∃ k, i = .sep k) ∨ i = .plp ∨ i = .rti ∨
      (∃ g, i = .brk g) ∨ ∃ g, i = .cop g)

/-- In the cases of the listed writers the claim names the instruction; in every other case the part is kept. -/
theorem exec_writtenBy (h : exec i s = .next t) : s.WrittenBy i t := by
  cases exec_case_of_next h with
  | adc hq =>
    have hv : ∃ q, adcOf q = some i := ⟨_, hq⟩
    simp [State.WrittenBy, hv, State.opAdc, State.takeSum_flag]
  | sbc hq =>
    have hv : ∃ q, sbcOf q = some i := ⟨_, hq⟩
    simp [State.WrittenBy, hv, State.opSbc, State.takeSum_flag]
  | @bit q _ hq =>
    cases q with
    | imm v => simp [State.WrittenBy, State.opBit, Source.isImm, State.setFlagIf, State.flag_setFlag]
    | mem m =>
      have hv : ∃ q, bitOf (.mem q) = some i := ⟨m, hq⟩
      simp [State.WrittenBy, hv, State.opBit, Source.isImm, State.setFlagIf, State.flag_setFlag]
  | brk | cop => simp [State.WrittenBy, State.interrupt, State.enterHandler_flag]
  | rti => cases he : s.e <;> simp [State.WrittenBy, he, State.returnFromInterrupt_pbr]
  | _ => simp [State.WrittenBy, State.flag_setNZ, State.flag_setFlag, State.normalize_flag, State.compareFlags, State.opAnd,
      State.opAsl, State.opCmp, State.opCpx, State.opCpy, State.opDec, State.opDex, State.opDey, State.opEor, State.opInc,
      State.opInx, State.opIny, State.opJml, State.opJmlInd, State.opJmp, State.opJmpInd, State.opJmpIndX, State.opJsl,
      State.opJsr, State.opJsrIndX, State.opLda, State.opLdx, State.opLdy, State.opLsr, State.opOra, State.opPea, State.opPei,
      State.opPer, State.opPha, State.opPhb, State.opPhd, State.opPhk, State.opPhp, State.opPhx, State.opPhy, State.opPla,
      State.opPlb, State.opPld, State.opPlp, State.opPlx, State.opPly, State.opRep, State.opRol, State.opRor, State.opRtl,
      State.opRts, State.opSep, State.opSta, State.opStp, State.opStx, State.opSty, State.opStz, State.opTax, State.opTay,
      State.opTcd, State.opTcs, State.opTdc, State.opTrb, State.opTsb, State.opTsc, State.opTsx, State.opTxa, State.opTxs,
      State.opTxy, State.opTya, State.opTyx, State.opWai, State.opXba, State.opXce, State.logic, State.shift, State.branchLong,
      State.branch_eq_setPc, State.moveBlock_eq]

/-- Settles O12. -/
theorem registerWriters : Obligations.RegisterWriters := by
  intro i s t h
  obtain ⟨he, hpbr, hdbr, hd, -⟩ := exec_writtenBy h
  exact ⟨he, hpbr, hdbr, hd⟩

/-- Settles O13: the mapping is kept because no access changes it. -/
theorem hiddenStateWriters : Obligations.HiddenStateWriters := by
  intro i s t h
  obtain ⟨-, -, -, -, hstopped, hwaiting, hnmi, hirq, hinputs, -⟩ := exec_writtenBy h
  exact ⟨hstopped, hwaiting, hnmi, hirq, hinputs, (exec_accesses h).romMap⟩

/-- Settles O15. -/
theorem flagWriters : Obligations.FlagWriters := by
  intro i s t h
  obtain ⟨-, -, -, -, -, -, -, -, -, hflags⟩ := exec_writtenBy h
  exact hflags

end Sys2Proof.Machine
end

section
/-! The invariants R22 and R39 under every step. Memory keeps its canonical form because an instruction reaches it by reads and writes
only (`exec_accesses`). For the registers there are two cases: an instruction that changes `P.m`, `P.x` or `E` normalizes (R41), and a
normalized state meets the invariants; any other one keeps the modes, and then only the high bytes of `X`, `Y` and `S` matter. -/

namespace Sys2Proof.Machine

variable {i : Instr} {s t : State}

/-- What the invariants say of the registers. -/
def State.regsInv (s : State) : Prop := s.indexInv ∧ s.emulationInv

theorem State.Inv_iff : s.Inv ↔ s.regsInv ∧ s.memoryInv := and_assoc.symm

/-- The invariants of the registers look at the modes and at three high bytes. -/
theorem State.regsInv_of (hm : t.flag .m = s.flag .m) (hx : t.flag .x = s.flag .x) (he : t.e = s.e) (hs : s.regsInv)
    (hindex : s.flag .x = true → hi8 s.x = 0 → hi8 s.y = 0 → hi8 t.x = 0 ∧ hi8 t.y = 0)
    (hsp : s.e = true → hi8 s.sp = 1 → hi8 t.sp = 1) : t.regsInv := by
  obtain ⟨hi, hemu⟩ := hs
  refine ⟨fun h => ?_, fun h => ?_⟩
  · rw [hx] at h
    exact hindex h (hi h).1 (hi h).2
  · rw [he] at h
    obtain ⟨hM, hX, hS⟩ := hemu h
    exact ⟨hm.trans hM, hx.trans hX, hsp h hS⟩

theorem State.regsInv_congr (hs : s.regsInv) (hp : t.p = s.p) (he : t.e = s.e) (hx : t.x = s.x) (hy : t.y = s.y)
    (hsp : t.sp = s.sp) : t.regsInv :=
  State.regsInv_of (State.flag_eq_of_p hp _) (State.flag_eq_of_p hp _) he hs (by rw [hx, hy]; exact fun _ h h' => ⟨h, h'⟩)
    (by rw [hsp]; exact fun _ h => h)

/-! ### The stack pointer stays in page 1 -/

theorem State.spDown_hi8 (he : s.e = true) (k : Nat) : hi8 (s.spDown k) = hi8 s.sp := by simp [State.spDown, he]
theorem State.spUp_hi8 (he : s.e = true) (k : Nat) : hi8 (s.spUp k) = hi8 s.sp := by simp [State.spUp, he]
theorem State.spFixed_hi8 (he : s.e = true) (v : Word) : hi8 (s.spFixed v) = 1 := by simp [State.spFixed, he]

/-! ### Normalize -/

/-- `Normalize()` is what makes the invariants hold (R41). -/
theorem State.normalize_regsInv (s : State) : s.normalize.regsInv := by
  refine ⟨fun hx => ?_, fun he => ?_⟩
  · rw [State.normalize_x, State.normalize_y, hx]; simp
  · rw [State.normalize_e] at he
    simp [State.normalize_flag, State.normalize_sp, he]

theorem State.normalize_advance_regsInv (s : State) (n : Nat) : (s.normalize.advance n).regsInv :=
  State.regsInv_congr s.normalize_regsInv rfl rfl rfl rfl rfl

theorem State.normalize_hi8_x (h : hi8 s.x = 0) : hi8 s.normalize.x = 0 := by rw [State.normalize_x]; split <;> simp [h]
theorem State.normalize_hi8_y (h : hi8 s.y = 0) : hi8 s.normalize.y = 0 := by rw [State.normalize_y]; split <;> simp [h]
theorem State.normalize_hi8_sp (h : hi8 s.sp = 1) : hi8 s.normalize.sp = 1 := by rw [State.normalize_sp]; split <;> simp [h]

/-! ### RTI -/

/-- RTI once it has pulled and normalized the status (R306, R41). -/
def State.rtiStatus (s : State) : State := (s.pull8.2.setP s.pull8.1).normalize

@[simp] theorem State.rtiStatus_e (s : State) : s.rtiStatus.e = s.e := by simp [State.rtiStatus]

/-- After the status RTI pulls two bytes in emulation mode and three in native mode (R306). -/
theorem State.returnFromInterrupt_sp (s : State) : s.returnFromInterrupt.sp = s.rtiStatus.spUp (if s.e then 2 else 3) := by
  unfold State.returnFromInterrupt State.rtiStatus
  cases he : s.e
  · simpa [he] using State.spUp_spUp (s := (s.pull8.2.setP s.pull8.1).normalize) (n := 2) (by simp) (by simp) 1
  · simp [he]

theorem State.returnFromInterrupt_x (s : State) : s.returnFromInterrupt.x = s.rtiStatus.x := by
  unfold State.returnFromInterrupt State.rtiStatus; dsimp only; split <;> simp
theorem State.returnFromInterrupt_y (s : State) : s.returnFromInterrupt.y = s.rtiStatus.y := by
  unfold State.returnFromInterrupt State.rtiStatus; dsimp only; split <;> simp
theorem State.returnFromInterrupt_p (s : State) : s.returnFromInterrupt.p = s.rtiStatus.p := by
  unfold State.returnFromInterrupt State.rtiStatus; dsimp only; split <;> simp

/-- RTI normalizes and then moves `S` inside its page. -/
theorem State.returnFromInterrupt_regsInv (s : State) : s.returnFromInterrupt.regsInv := by
  have hf := State.flag_eq_of_p s.returnFromInterrupt_p
  refine State.regsInv_of (s := s.rtiStatus) (hf _) (hf _) (by simp) (State.normalize_regsInv _) ?_ ?_
  · rw [State.returnFromInterrupt_x, State.returnFromInterrupt_y]
    exact fun _ h h' => ⟨h, h'⟩
  · intro he h
    rw [State.returnFromInterrupt_sp, State.spUp_hi8 he, h]

/-! ### Every instruction -/

/-- The five instructions that change `P.m`, `P.x` or `E` leave a state that meets the invariants, whatever it was before (R41). -/
theorem exec_regsInv_of_modes_ne (h : exec i s = .next t)
    (hne : ¬ (t.flag .m = s.flag .m ∧ t.flag .x = s.flag .x ∧ t.e = s.e)) : t.regsInv := by
  have hi : (∃ k, i = .rep k) ∨ (∃ k, i = .sep k) ∨ i = .plp ∨ i = .rti ∨ i = .xce := by
    obtain ⟨he, -⟩ := registerWriters i s t h
    obtain ⟨-, hm, hx, -⟩ := flagWriters i s t h
    rw [not_and_or, not_and_or] at hne
    obtain hne | hne | hne := hne
    · exact hm hne
    · exact hx hne
    · exact .inr (.inr (.inr (.inr (he hne))))
  obtain ⟨k, rfl⟩ | ⟨k, rfl⟩ | rfl | rfl | rfl := hi <;> cases h
  · exact State.normalize_advance_regsInv _ _
  · exact State.normalize_advance_regsInv _ _
  · exact State.normalize_advance_regsInv _ _
  · exact s.returnFromInterrupt_regsInv
  · exact State.normalize_advance_regsInv _ _

/-- An 8-bit read-modify-write keeps `B` (R20). -/
theorem Place.modify_hi8_c (p : Place) (f : Word → Word) (s : State) : hi8 (p.modify .w8 f s).2.c = hi8 s.c := by
  cases p with
  | acc => exact s.setAcc_w8_hi _
  | mem m => simp [Place.modify]

/-- A value of 8 bits has a zero high byte. -/
theorem hi8_eq_zero_of_trunc {v : Word} (h : trunc .w8 v = v) : hi8 v = 0 := by rw [← h]; simp

/-- What an instruction leaves in the high bytes: `B` when it writes `Acc` at 8 bits (R20), those of `X` and `Y` when it writes them at
8 bits (R22), and page 1 in `S` in emulation mode (R39). -/
theorem exec_hi8 (h : exec i s = .next t) :
    (s.wA = .w8 → hi8 t.c ≠ hi8 s.c → i = .xba ∨ i = .tdc ∨ i = .tsc ∨ (∃ a b, i = .mvn a b) ∨ ∃ a b, i = .mvp a b) ∧
    (s.wX = .w8 → hi8 s.x = 0 → hi8 s.y = 0 → hi8 t.x = 0 ∧ hi8 t.y = 0) ∧
    (s.e = true → hi8 s.sp = 1 → hi8 t.sp = 1) := by
  have hread (q : Source) : hi8 (q.read .w8 s).1 = 0 := hi8_eq_zero_of_trunc (Source.read_trunc s .w8 q)
  have hpull : hi8 (s.pullW .w8).1 = 0 := hi8_eq_zero_of_trunc (State.pullW_trunc s .w8)
  cases exec_case_of_next h with
  | rti =>
    simp +contextual [State.returnFromInterrupt_sp, State.spUp_hi8, State.returnFromInterrupt_x, State.returnFromInterrupt_y,
      State.rtiStatus, State.normalize_sp, State.normalize_hi8_x, State.normalize_hi8_y]
  | _ => simp +contextual [hread, hpull, incValue, decValue, State.setAcc_w8_hi, State.takeSum_c_hi, Place.modify_hi8_c,
      State.normalize_hi8_x, State.normalize_hi8_y, State.normalize_hi8_sp, State.spFixed_hi8, State.spUp_hi8, State.spDown_hi8,
      State.fixStackPage_sp, State.pushW_sp, State.pushFrame_sp, State.push16_sp, State.enterHandler, State.opAdc, State.opAnd,
      State.opAsl, State.opBit, State.opCmp, State.opCpx, State.opCpy, State.opDec, State.opDex, State.opDey, State.opEor,
      State.opInc, State.opInx, State.opIny, State.opJml, State.opJmlInd, State.opJmp, State.opJmpInd, State.opJmpIndX,
      State.opJsl, State.opJsr, State.opJsrIndX, State.opLda, State.opLdx, State.opLdy, State.opLsr, State.opOra, State.opPea,
      State.opPei, State.opPer, State.opPha, State.opPhb, State.opPhd, State.opPhk, State.opPhp, State.opPhx, State.opPhy,
      State.opPla, State.opPlb, State.opPld, State.opPlp, State.opPlx, State.opPly, State.opRep, State.opRol, State.opRor,
      State.opRtl, State.opRts, State.opSbc, State.opSep, State.opSta, State.opStp, State.opStx, State.opSty, State.opStz,
      State.opTax, State.opTay, State.opTcd, State.opTcs, State.opTdc, State.opTrb, State.opTsb, State.opTsc, State.opTsx,
      State.opTxa, State.opTxs, State.opTxy, State.opTya, State.opTyx, State.opWai, State.opXba, State.opXce, State.logic,
      State.shift, State.branchLong, State.branch_eq_setPc, State.moveBlock_eq, State.interrupt]

/-- Settles O14. -/
theorem highByteOfAccumulatorKept : Obligations.HighByteOfAccumulatorKept := by
  intro i s t h hm
  obtain ⟨hB, -, -⟩ := exec_hi8 h
  exact hB (by simp [State.wA, hm])

theorem exec_regsInv (h : exec i s = .next t) (hs : s.regsInv) : t.regsInv := by
  by_cases hmodes : t.flag .m = s.flag .m ∧ t.flag .x = s.flag .x ∧ t.e = s.e
  · obtain ⟨hm, hx, he⟩ := hmodes
    obtain ⟨-, hindex, hsp⟩ := exec_hi8 h
    exact State.regsInv_of hm hx he hs (fun hx => hindex (by simp [State.wX, hx])) hsp
  · exact exec_regsInv_of_modes_ne h hmodes

theorem State.memoryInv_of_accesses (h : s.sys.Accesses t.sys) (hs : s.memoryInv) : t.memoryInv := h.wf hs.1 hs.2

theorem exec_Inv (h : exec i s = .next t) (hs : s.Inv) : t.Inv := by
  rw [State.Inv_iff] at hs ⊢
  exact ⟨exec_regsInv h hs.1, State.memoryInv_of_accesses (exec_accesses h) hs.2⟩

/-! ### Every other action of a step -/

/-- What leaves the registers and the lists of bytes alone keeps the invariants. -/
theorem State.Inv_congr (hs : s.Inv) (hp : t.p = s.p) (he : t.e = s.e) (hx : t.x = s.x) (hy : t.y = s.y) (hsp : t.sp = s.sp)
    (hmem : t.sys.mem = s.sys.mem) (hio : t.sys.io = s.sys.io) : t.Inv := by
  rw [State.Inv_iff] at hs ⊢
  refine ⟨State.regsInv_congr hs.1 hp he hx hy hsp, ?_⟩
  rw [State.memoryInv, hmem, hio]
  exact hs.2

theorem State.sample_Inv (hs : s.Inv) : s.sample.Inv := by apply State.Inv_congr hs <;> simp

theorem State.idle_Inv (hs : s.Inv) : s.idle.Inv := by apply State.Inv_congr hs <;> simp

/-- An exception moves `S` inside its page and writes only I and D (R380). -/
theorem State.interrupt_Inv (kind : InterruptKind) (ret : Word) (hs : s.Inv) : (s.interrupt kind ret).Inv := by
  rw [State.Inv_iff] at hs ⊢
  refine ⟨?_, State.memoryInv_of_accesses (State.acc_interrupt .refl kind ret) hs.2⟩
  refine State.regsInv_of ?_ ?_ ?_ hs.1 ?_ ?_
  · simp [State.flag_interrupt]
  · simp [State.flag_interrupt]
  · simp [State.interrupt]
  · simp +contextual [State.interrupt]
  · intro he hS
    simp [State.interrupt, State.enterHandler, State.pushFrame_sp, State.spDown_hi8 he, hS]

theorem State.takeNmi_Inv (hs : s.Inv) : s.takeNmi.Inv :=
  State.interrupt_Inv _ _ (State.Inv_congr hs rfl rfl rfl rfl rfl rfl rfl)

theorem State.takeIrq_Inv (hs : s.Inv) : s.takeIrq.Inv :=
  State.interrupt_Inv _ _ (State.Inv_congr hs rfl rfl rfl rfl rfl rfl rfl)

/-- The fetch only reads (R26, R84). -/
theorem State.fetchBytes_sys (s : State) : s.sys.readOf s.fetchBytes.2.sys := (State.read8_sys _ _).trans (State.readProg_sys _ _ _)

theorem State.fetch_Inv (hs : s.Inv) : s.fetch.2.Inv := by
  have hread := (s.setSys s.sys.tickMath).fetchBytes_sys
  exact State.Inv_congr hs (by simp) (by simp) (by simp) (by simp) (by simp) hread.mem hread.io

/-! ### Reset -/

/-- The flags after reset where the spec gives them a value (R45). -/
theorem resetStatus_getLsbD (draw : Byte) :
    (resetStatus draw).getLsbD 5 = true ∧ (resetStatus draw).getLsbD 4 = true ∧ (resetStatus draw).getLsbD 2 = true ∧
      (resetStatus draw).getLsbD 3 = false := by
  simp [resetStatus]

/-- What reset writes before it reads its vector, and that the vector read leaves it so (R420). -/
theorem State.resetMachine_values (s : State) :
    s.resetMachine.e = true ∧ s.resetMachine.p = resetStatus (Config.resetFlags s.free) ∧ s.resetMachine.d = 0 ∧
      s.resetMachine.dbr = 0 ∧ s.resetMachine.pbr = 0 ∧ hi8 s.resetMachine.sp = 1 ∧ hi8 s.resetMachine.x = 0 ∧
      hi8 s.resetMachine.y = 0 ∧ s.resetMachine.stopped = false ∧ s.resetMachine.waiting = false ∧
      s.resetMachine.nmiPending = false := by
  simp [State.resetMachine]

/-- Reset leaves RAM and ROM, and the platform registers as after power-on (R421). -/
theorem State.resetMachine_sys (s : State) : s.sys.afterReset.readOf s.resetMachine.sys := by
  simp only [State.resetMachine, State.setPc_sys]
  apply State.read16_sys

theorem State.resetMachine_peek (s : State) (a : Addr) : s.resetMachine.sys.peek a = s.sys.peek a :=
  s.resetMachine_sys.peek a

/-- The RESET vector is in ROM, so that reset finds it there (R420). -/
theorem State.resetMachine_pc (s : State) : s.resetMachine.sys.showsWord 0x00FFFC 0x00FFFD s.resetMachine.pc := by
  obtain ⟨lo, hlo⟩ := System.peek_rom (y := s.sys) (bank := 0) (off := 0xFFFC) (by decide) (by decide)
  obtain ⟨hi, hhi⟩ := System.peek_rom (y := s.sys) (bank := 0) (off := 0xFFFD) (by decide) (by decide)
  have hword : s.sys.afterReset.showsWord 0x00FFFC 0x00FFFD (join16 hi lo) :=
    ⟨hlo.trans (by rw [lo8_join16]), hhi.trans (by rw [hi8_join16])⟩
  have hpc : s.resetMachine.pc = join16 hi lo := by
    unfold State.resetMachine
    dsimp only
    rw [State.read16_of_peek (v := join16 hi lo) hword]
    rfl
  rw [hpc]
  exact ⟨(s.resetMachine_sys.peek _).trans hword.1, (s.resetMachine_sys.peek _).trans hword.2⟩

theorem State.resetMachine_Inv (hs : s.Inv) : s.resetMachine.Inv := by
  obtain ⟨-, hp, -, -, -, hsp, hx, hy, -⟩ := s.resetMachine_values
  obtain ⟨hM, hX, -⟩ := resetStatus_getLsbD (Config.resetFlags s.free)
  refine ⟨fun _ => ⟨hx, hy⟩, fun _ => ⟨?_, ?_, hsp⟩, ?_⟩
  · rw [State.flag, hp]; exact hM
  · rw [State.flag, hp]; exact hX
  · obtain ⟨-, -, hmem, -⟩ := hs
    rw [State.memoryInv, s.resetMachine_sys.mem, s.resetMachine_sys.io]
    exact ⟨hmem, Memory.nil_wf _⟩

/-- Settles O8. -/
theorem resetState : Obligations.ResetState := by
  refine ⟨rfl, rfl, rfl, rfl, rfl, rfl, rfl, rfl, rfl, rfl, rfl, rfl, rfl, rfl, ?_⟩
  exact ⟨rfl, rfl⟩

/-- Settles O9: a reset asked for is the step's first choice, and `resetMachine` gives the values. -/
theorem resetDuringRun : Obligations.ResetDuringRun := by
  intro s hr
  have hstep : step s = .next s.sample.resetMachine := by simp [step, State.action, hr]
  obtain ⟨he, hp, hd, hdbr, hpbr, hsp, hx, hy, hstop, hwait, hnmi⟩ := s.sample.resetMachine_values
  obtain ⟨hM, hX, hI, hD⟩ := resetStatus_getLsbD (Config.resetFlags s.sample.free)
  refine ⟨_, hstep, he, ?_, ?_, ?_, ?_, hd, hdbr, hpbr, hsp, hx, hy, hstop, hwait, hnmi, ?_, s.sample.resetMachine_pc⟩
  · rw [State.flag, hp]; exact hM
  · rw [State.flag, hp]; exact hX
  · rw [State.flag, hp]; exact hI
  · rw [State.flag, hp]; exact hD
  · intro a
    rw [State.resetMachine_peek, State.sample_sys]

/-- Settles O10. -/
theorem invAtReset : Obligations.InvAtReset :=
  ⟨fun _ => ⟨rfl, rfl⟩, fun _ => ⟨rfl, rfl, rfl⟩, Memory.nil_wf _, Memory.nil_wf _⟩

/-- Settles O11: whichever action the step chooses keeps the invariants. -/
theorem invKeptByEveryStep : Obligations.InvKeptByEveryStep := by
  intro s t hs h
  have hsample := State.sample_Inv hs
  unfold step at h
  split at h
  case h_6 => exact exec_Inv h (State.fetch_Inv hsample)
  all_goals obtain rfl := Host.Outcome.next.inj h
  case h_1 => exact State.resetMachine_Inv hsample
  case h_2 => exact hsample
  case h_3 => exact State.takeNmi_Inv hsample
  case h_4 => exact State.takeIrq_Inv hsample
  case h_5 => exact State.idle_Inv hsample

end Sys2Proof.Machine
end

section
/-! What a step does (R381): every instruction and every action has a next state; a fetch decodes the bytes at `PBR:PC`. -/

namespace Sys2Proof.Machine

variable {s : State} {i : Instr}

/-- Settles O1: an instruction runs one of the cases of `ExecCase`, and each action of a step answers a state. -/
theorem everyInstructionCompletes : Obligations.EveryInstructionCompletes := by
  have hexec (i : Instr) (s : State) : ∃ t, exec i s = .next t := (exec_case i s).imp fun _ h => h.1
  refine ⟨hexec, fun s => ?_⟩
  unfold step
  split
  case h_6 => exact hexec _ _
  all_goals exact ⟨_, rfl⟩

/-! ### The fetch -/

/-- The state a step's instruction is fetched in: the sample taken, the multiplier and divider one instruction on (R436; log 9). -/
theorem step_of_fetch (h : s.sample.action s.resetRequested = .fetch) : step s = exec s.sample.fetch.1 s.sample.fetch.2 := by
  simp only [step, h]

theorem State.sample_fetch_snd (s : State) : s.sample.fetch.2 = (s.sample.setSys s.sys.tickMath).fetchBytes.2 := by
  simp only [State.fetch, State.sample_sys]

/-- What the fetch decodes is what `decode` reads first in the bytes fetched. -/
theorem State.sample_fetch_fst {op : Byte} {rest : List Byte} (h : (s.sample.setSys s.sys.tickMath).fetchBytes.1 = op :: rest) :
    s.sample.fetch.1 = decodeRaw op (.ofBytes (s.flag .m) (s.flag .x) rest) := by
  simp only [State.fetch, State.sample_sys, State.sample_flag, h]
  rfl

theorem State.fetchBytes_eq_setSys (s : State) : s.fetchBytes.2 = s.setSys s.fetchBytes.2.sys := by
  apply State.ext_fields <;> simp

/-- Settles O2. -/
theorem stepRunsDecodedInstruction : Obligations.StepRunsDecodedInstruction := by
  intro s i hact hdec
  refine ⟨?_, State.fetchBytes_eq_setSys _, State.fetchBytes_sys _⟩
  have hi : s.sample.fetch.1 = i := by
    cases hb : (s.sample.setSys s.sys.tickMath).fetchBytes.1 with
    | nil => rw [hb] at hdec; cases hdec
    | cons op rest =>
      rw [hb, decode] at hdec
      split at hdec
      · cases hdec
      · rw [State.sample_fetch_fst hb]
        exact congrArg Prod.fst (Except.ok.inj hdec)
  rw [step_of_fetch hact, hi, State.sample_fetch_snd]

/-! ### Instructions that stand in memory -/

/-- Bytes that RAM or ROM shows from an offset of the program bank on are fetched as they stand, and the fetch changes nothing. -/
theorem State.readProg_of_peek {bytes : List Byte} {o : Word}
    (h : ∀ k b, bytes[k]? = some b → s.sys.peek (addr24 s.pbr (o + BitVec.ofNat 16 k)) = some b) :
    s.readProg o bytes.length = (bytes, s) := by
  induction bytes generalizing o with
  | nil => rfl
  | cons b bytes ih =>
    have hb : s.read8 (addr24 s.pbr o) = (b, s) := State.read8_of_peek (by simpa using h 0 b rfl)
    have hrest : s.readProg (o + 1) bytes.length = (bytes, s) := by
      refine ih fun k c hc => ?_
      have := h (k + 1) c hc
      rwa [Nat.add_comm k 1, ← word_add_add] at this
    simp only [List.length_cons, State.readProg, hb, hrest]

/-- The bytes fetched at `PBR:PC` are the instruction that stands there. -/
theorem State.fetchBytes_of_peek (h : ∀ k b, (encode (s.flag .m) (s.flag .x) i)[k]? = some b → s.sys.peek (s.fetchAddr k) = some b) :
    s.fetchBytes = (encode (s.flag .m) (s.flag .x) i, s) := by
  have hop : s.read8 (addr24 s.pbr s.pc) = (i.opcode, s) := State.read8_of_peek (by simpa [State.fetchAddr] using h 0 _ rfl)
  have hlen : opcodeLength (s.flag .m) (s.flag .x) i.opcode - 1 = (i.payload.bytes (s.flag .m) (s.flag .x)).length := by
    rw [opcodeLength_opcode, ← Payload.length_bytes, Nat.add_sub_cancel]
  have hrest : s.readProg (s.pc + 1) (i.payload.bytes (s.flag .m) (s.flag .x)).length = (i.payload.bytes (s.flag .m) (s.flag .x), s) := by
    refine State.readProg_of_peek fun k b hb => ?_
    have := h (k + 1) b hb
    rwa [State.fetchAddr, Nat.add_comm k 1, ← word_add_add] at this
  simp only [State.fetchBytes, hop, hlen, hrest, encode]

/-- Settles O3: the encoding is what the fetch reads, and decoding it gives the instruction back (O4). -/
theorem stepRunsInstructionInMemory : Obligations.StepRunsInstructionInMemory := by
  intro s i hwf hact hmem
  have hbytes : (s.sample.setSys s.sys.tickMath).fetchBytes =
      (encode (s.flag .m) (s.flag .x) i, s.sample.setSys s.sys.tickMath) := by
    have := State.fetchBytes_of_peek (s := s.sample.setSys s.sys.tickMath) (i := i)
    simp only [State.setSys_flag, State.sample_flag] at this
    refine this fun k b hb => ?_
    simpa [State.fetchAddr] using hmem k b hb
  have hdec := encodedInstructionsDecode (s.flag .m) (s.flag .x) i [] hwf
  rw [List.append_nil] at hdec
  have hstep := (stepRunsDecodedInstruction s i hact (by rw [hbytes]; exact hdec)).1
  rw [hstep, hbytes]

/-! ### Stopped and waiting -/

/-- What sampling a boundary leaves (R375, R376). -/
theorem State.sample_eq_of_inputs (s : State) :
    s.sample = { s with inputs := s.inputs.tail, irqLine := s.sample.irqLine, nmiPending := s.sample.nmiPending } := by
  cases hi : s.inputs with
  | nil =>
    rw [State.sample_nil hi]
    exact congrArg (fun l => { s with inputs := l }) hi
  | cons i rest => simp only [State.sample, hi]; rfl

/-- Settles O54: with no reset asked for, `stopped` comes first, and waiting goes on unless an IRQ that is not taken ends it. -/
theorem stoppedAndWaiting : Obligations.StoppedAndWaiting := by
  intro s hreset
  refine ⟨fun hstop => ?_, fun hstop hwait hnmi => ⟨fun hirq => ?_, fun hirq hmask => ?_⟩⟩
  · rw [← State.sample_eq_of_inputs]
    simp [step, State.action, hreset, hstop]
  · simp [step, State.action, hreset, hstop, hwait, hnmi, hirq, State.idle]
  · simp [step, State.action, hreset, hstop, hwait, hnmi, hirq, hmask, State.idle]

end Sys2Proof.Machine
end

section
/-! Operands: their addresses as numbers (R132 to R150, R158) and what reading one gives (R63, R64, R131, R159). -/

namespace Sys2Proof.Machine

variable {s : State}

theorem Loc.linear_zext24_addr (a : Addr) (i : Word) (k : Nat) :
    ((Loc.linear (a + zext24 i)).addr k).toNat = (a.toNat + i.toNat + k) % 2 ^ 24 := by
  rw [Loc.linear_addr, BitVec.toNat_add, zext24_toNat, Nat.mod_add_mod]

theorem State.stackRelative_addr (s : State) (d : Byte) (k : Nat) :
    ((s.stackRelative d).addr k).toNat = (s.sp.toNat + d.toNat + k) % 65536 := by
  rw [State.stackRelative, Loc.bank0_addr, BitVec.toNat_add, toNat_zext16, Nat.mod_add_mod]

/-- Data in the data bank without an index (R132, R144, R145). -/
theorem State.dataBank_addr_zero (s : State) (p : Word) (k : Nat) :
    ((s.dataBank p 0).addr k).toNat = (s.dbr.toNat * 65536 + p.toNat + k) % 2 ^ 24 := by
  simpa using s.dataBank_addr p 0 k

/-- Settles O16: each mode is one location, and each kind of location has its rule for the next bytes (R65, R66, R68). -/
theorem operandAddresses : Obligations.OperandAddresses := by
  intro s k _
  refine ⟨fun a => ?_, fun a => ?_, fun d => ⟨fun h => ?_, fun h => ?_, s.stackRelative_addr d k, rfl, rfl, rfl, rfl⟩⟩
  · exact ⟨s.dataBank_addr_zero a k, s.dataBank_addr a s.x k, s.dataBank_addr a s.y k, rfl, rfl, rfl⟩
  · exact ⟨Loc.linear_addr a k, Loc.linear_zext24_addr a s.x k, rfl, rfl⟩
  · exact ⟨s.direct_addr_nowrap d 0 k h, s.direct_addr_nowrap d s.x k h, s.direct_addr_nowrap d s.y k h⟩
  · exact ⟨s.direct_addr_wrap d 0 k h, s.direct_addr_wrap d s.x k h, s.direct_addr_wrap d s.y k h⟩

/-- The pointer of `[d]` and `[d],Y` stands in bank 0 by 16-bit arithmetic, whatever the mode (R147, R148, R158). -/
theorem State.directNoWrap_addr (s : State) (d : Byte) (k : Nat) :
    (s.directNoWrap d).addr k = addr24 0 (s.d + zext16 d + BitVec.ofNat 16 k) := rfl

theorem State.read24_directNoWrap {d : Byte} {p : Word} {bank : Byte}
    (h : s.sys.showsWord (addr24 0 (s.d + zext16 d)) (addr24 0 (s.d + zext16 d + 1)) p)
    (hb : s.sys.peek (addr24 0 (s.d + zext16 d + 2)) = some bank) : s.read24 (s.directNoWrap d) = (addr24 bank p, s) :=
  State.read24_of_peek (by simpa [State.directNoWrap_addr] using h) hb

/-- Settles O17: a pointer that memory shows is read as it stands, and the operand is then where the mode puts it. -/
theorem pointerAddresses : Obligations.PointerAddresses := by
  intro s d k p _
  refine ⟨fun h => ?_, fun h => ?_, fun bank h hb => ?_, fun h => ?_⟩
  · have hread : s.read16 (s.direct d 0) = (p, s) := State.read16_of_peek h
    simp only [Mode.resolve, hread, and_true]
    exact ⟨s.dataBank_addr_zero p k, s.dataBank_addr p s.y k⟩
  · have hread : s.read16 (s.direct d s.x) = (p, s) := State.read16_of_peek h
    simp only [Mode.resolve, hread, and_true]
    exact s.dataBank_addr_zero p k
  · simp only [Mode.resolve, State.read24_directNoWrap h hb, and_true]
    rw [Loc.linear_addr, Loc.linear_zext24_addr, toNat_addr24]
    exact ⟨rfl, rfl⟩
  · have hread : s.read16 (s.stackRelative d) = (p, s) := State.read16_of_peek h
    simp only [Mode.resolve, hread, and_true]
    exact s.dataBank_addr p s.y k

/-- Settles O18: finding the operand leaves memory as it was, so what memory shows is what the read gives. -/
theorem operandValues : Obligations.OperandValues := by
  intro s w
  refine ⟨fun v => ⟨toNat_trunc w v, rfl⟩,
    fun m => ⟨State.writesNothing_of (Source.read_sys s w _), fun b hw hb => ?_, fun v hw hv => ?_⟩⟩
  · subst hw
    simp only [Source.read, State.readW, State.read8_of_peek ((Mode.resolve_sys s m).peek_some hb)]
  · subst hw
    have hshow : (m.resolve s).2.sys.showsWord ((m.resolve s).1.addr 0) ((m.resolve s).1.addr 1) v :=
      ⟨(Mode.resolve_sys s m).peek_some hv.1, (Mode.resolve_sys s m).peek_some hv.2⟩
    simp only [Source.read, State.readW, State.read16_of_peek hshow]

end Sys2Proof.Machine
end

section
/-! Instructions that read an operand and write a register or flags: loads (R170 to R172), compares (R320 to R322), AND, ORA, EOR and BIT
(R250 to R253). Reading changes only what stands behind the bus, so each instruction is its register and flag updates on `s`. -/

namespace Sys2Proof.Machine

variable {s t u : State} {w : Width}

/-! ### What an operand read leaves -/

theorem Source.read_lt (s : State) (w : Width) (q : Source) : (q.read w s).1.toNat < 2 ^ widthBits w := by
  rw [← Source.read_trunc]; exact trunc_lt _ _

theorem State.acc_lt (s : State) (w : Width) : (s.acc w).toNat < 2 ^ widthBits w := trunc_lt _ _

@[simp] theorem Source.read_acc (q : Source) (w v : Width) (s : State) : (q.read w s).2.acc v = s.acc v :=
  State.acc_eq_of_c (by simp) v

/-- A state whose memory system is that after an operand read has written nothing. -/
theorem State.writesNothing_read {q : Source} (h : t.sys = (q.read w s).2.sys) : s.writesNothing t :=
  State.writesNothing_of (h ▸ Source.read_sys s w q)

/-! ### Loads -/

/-- Writing `Acc` with a value of its width (R11, R12, R20). -/
theorem State.accIs_setAcc {v : Word} (hv : trunc w v = v) (hu : u.c = s.c) (ht : t.c = (u.setAcc w v).c) : s.accIs t w v := by
  refine ⟨?_, ?_⟩
  · rw [State.acc_eq_of_c ht, State.acc_setAcc, hv]
  · rintro rfl
    rw [ht, State.setAcc_w8_hi, hu]

/-- Settles O19. -/
theorem ldaLoads : Obligations.LdaLoads := by
  intro q i s hi
  refine ⟨_, exec_lda s hi, ?acc, State.setsNZ_setNZ_advance (by simp) _ _ _, ?frame,
    State.writesNothing_read (q := q) (w := s.wA) (by simp [State.opLda])⟩
  case acc => exact State.accIs_setAcc (Source.read_trunc s s.wA q) (u := (q.read s.wA s).2) (by simp) (by simp [State.opLda])
  case frame => apply State.ext_fields <;> simp [State.opLda, State.advance]

/-- Settles O20. -/
theorem ldxLdyLoad : Obligations.LdxLdyLoad := by
  intro q i s
  refine ⟨fun hi => ?ldx, fun hi => ?ldy⟩
  case ldx =>
    refine ⟨_, exec_ldx s hi, by simp [State.opLdx], State.setsNZ_setNZ_advance (by simp) _ _ _, ?_,
      State.writesNothing_read (q := q) (w := s.wX) (by simp [State.opLdx])⟩
    apply State.ext_fields <;> simp [State.opLdx, State.advance]
  case ldy =>
    refine ⟨_, exec_ldy s hi, by simp [State.opLdy], State.setsNZ_setNZ_advance (by simp) _ _ _, ?_,
      State.writesNothing_read (q := q) (w := s.wX) (by simp [State.opLdy])⟩
    apply State.ext_fields <;> simp [State.opLdy, State.advance]

/-! ### Compares -/

/-- The flags after a compare (file 47, common operation). -/
theorem State.flag_compareFlags (s : State) (w : Width) (r m : Word) (f : Flag) : (s.compareFlags w r m).flag f =
    match f with | .n => msb w (difference w r m) | .z => r == m | .c => decide (m.toNat ≤ r.toNat) | f => s.flag f := by
  cases f <;> simp [State.compareFlags, State.flag_setFlag]

/-- The common operation of CMP, CPX and CPY: register value `r` against operand `q`, at width `w`. -/
def State.compare (w : Width) (r : Word) (q : Source) (s : State) : State :=
  ((q.read w s).2.compareFlags w r (q.read w s).1).advance (q.length w)

theorem State.flag_compare (s : State) (w : Width) (r : Word) (q : Source) (f : Flag) :
    (s.compare w r q).flag f = ((q.read w s).2.compareFlags w r (q.read w s).1).flag f := by simp [State.compare]

/-- Settles O46: the three mnemonics are one operation on their register. -/
theorem compareFlags : Obligations.CompareFlags := by
  intro q i s w r hi
  have hrun : exec i s = .next (s.compare w r q) := by
    obtain ⟨h, rfl, rfl⟩ | ⟨h, rfl, rfl⟩ | ⟨h, rfl, rfl⟩ := hi
    · exact exec_cmp s h
    · exact exec_cpx s h
    · exact exec_cpy s h
  have hr : r.toNat < 2 ^ widthBits w := by
    obtain ⟨-, -, rfl⟩ | ⟨-, -, rfl⟩ | ⟨-, -, rfl⟩ := hi <;> exact trunc_lt _ _
  refine ⟨_, hrun, ?c, ?z, ?n, ?keeps, ?frame, State.writesNothing_read (q := q) (w := w) (by simp [State.compare])⟩
  case c => simp [State.flag_compare, State.flag_compareFlags]
  case z => simp [State.flag_compare, State.flag_compareFlags, BitVec.toNat_inj]
  case n =>
    rw [State.flag_compare, State.flag_compareFlags]
    exact msb_difference w r _ hr (Source.read_lt s w q)
  case keeps =>
    intro f hf
    rw [State.flag_compare, State.flag_compareFlags]
    cases f <;> simp_all
  case frame => apply State.ext_fields <;> simp [State.compare, State.advance]

/-! ### AND, ORA, EOR -/

/-- Settles O37: the three mnemonics differ in the operation on each bit; bits above the width are not part of `Acc`. -/
theorem logicOnAccumulator : Obligations.LogicOnAccumulator := by
  intro q i s f hi
  obtain ⟨op, hrun, hop⟩ : ∃ op, exec i s = .next (s.logic op q) ∧
      ∀ a b k, (op a b).getLsbD k = f (a.getLsbD k) (b.getLsbD k) := by
    obtain ⟨h, rfl⟩ | ⟨h, rfl⟩ | ⟨h, rfl⟩ := hi
    · exact ⟨_, exec_and s h, fun a b k => BitVec.getLsbD_and⟩
    · exact ⟨_, exec_ora s h, fun a b k => BitVec.getLsbD_or⟩
    · exact ⟨_, exec_eor s h, fun a b k => BitVec.getLsbD_xor⟩
  have hacc : (s.logic op q).acc s.wA = trunc s.wA (op (s.acc s.wA) (q.read s.wA s).1) := by
    rw [← State.acc_setAcc (q.read s.wA s).2]
    exact State.acc_eq_of_c (by simp [State.logic]) _
  refine ⟨_, hrun, ?bits, ?high, ?flags, ?frame, State.writesNothing_read (q := q) (w := s.wA) (by simp [State.logic])⟩
  case bits =>
    intro k hk
    rw [hacc, getLsbD_trunc, decide_eq_true hk, Bool.true_and, hop]
  case high =>
    intro hw
    simp [State.logic, hw, State.setAcc_w8_hi]
  case flags =>
    rw [hacc, State.setsNZ_trunc]
    exact State.setsNZ_setNZ_advance (by simp) _ _ _
  case frame => apply State.ext_fields <;> simp [State.logic, State.advance]

/-! ### BIT -/

/-- The flags after BIT (R253): Z always, N and V in the memory forms only. -/
theorem State.flag_opBit (s : State) (q : Source) (f : Flag) : (s.opBit q).flag f =
    if f = .z then s.acc s.wA &&& (q.read s.wA s).1 == 0
    else if q.isImm = false ∧ f = .n then msb s.wA (q.read s.wA s).1
    else if q.isImm = false ∧ f = .v then msb2 s.wA (q.read s.wA s).1
    else s.flag f := by
  cases hq : q.isImm <;> cases f <;> simp [State.opBit, State.setFlagIf, State.flag_setFlag, hq]

/-- Settles O38. -/
theorem bitTestsOperand : Obligations.BitTestsOperand := by
  intro q i s hi
  refine ⟨_, exec_bit s hi, ?z, ?imm, ?mem, ?frame, State.writesNothing_read (q := q) (w := s.wA) (by simp [State.opBit])⟩
  case z => simp [State.flag_opBit, beq_eq_decide]
  case imm =>
    intro hq f hf
    simp_all [State.flag_opBit]
  case mem =>
    intro hq
    refine ⟨fun f hf => ?_, ?_, ?_⟩
    · simp_all [State.flag_opBit]
    · simp [State.flag_opBit, hq]; rfl
    · simp [State.flag_opBit, hq]; rfl
  case frame => apply State.ext_fields <;> simp [State.opBit, State.advance]

end Sys2Proof.Machine
end

section
/-! ADC and SBC (R230 to R233). Both write the same registers and flags from their `Sum`: what that leaves is said once, for any
sum, and the arithmetic of the four kinds of sum is in the lemmas about `addBinary`, `subBinary`, `addDecimal` and `subDecimal`. -/

namespace Sys2Proof.Machine

variable {s : State} {q : Source} {i : Instr}

/-- ADC and SBC once their sum `r` is known: the operand is read, a decimal sum has used its draw, `Acc` and the flags are written. -/
def State.applySum (q : Source) (r : Sum) (s : State) : State :=
  ((q.read s.wA s).2.drawIfDecimal.takeSum s.wA r).advance (q.length s.wA)

/-- The sum does not see the change a read makes (R159). -/
theorem State.opAdc_eq (s : State) (q : Source) : s.opAdc q = s.applySum q (s.adcSum s.wA (q.read s.wA s).1) := by
  simp [State.opAdc, State.applySum, State.adcSum, State.decimalMode]

theorem State.opSbc_eq (s : State) (q : Source) : s.opSbc q = s.applySum q (s.sbcSum s.wA (q.read s.wA s).1) := by
  simp [State.opSbc, State.applySum, State.sbcSum, State.decimalMode]

theorem State.applySum_acc (s : State) (q : Source) (r : Sum) : (s.applySum q r).acc s.wA = trunc s.wA r.result := by
  rw [← State.takeSum_acc (q.read s.wA s).2.drawIfDecimal]
  exact State.acc_eq_of_c (by simp [State.applySum]) _

theorem State.applySum_flag (s : State) (q : Source) (r : Sum) (f : Flag) : (s.applySum q r).flag f =
    match f with | .z => trunc s.wA r.result == 0 | .n => msb s.wA r.result | .v => r.overflow | .c => r.carry | f => s.flag f := by
  have h : (s.applySum q r).flag f = ((q.read s.wA s).2.drawIfDecimal.takeSum s.wA r).flag f :=
    State.flag_eq_of_p (by simp [State.applySum]) f
  rw [h, State.takeSum_flag]
  cases f <;> simp

theorem State.applySum_free (q : Source) (r : Sum) (h : s.decimalMode = false) : (s.applySum q r).free = s.free := by
  have hd : (q.read s.wA s).2.decimalMode = false := by simpa [State.decimalMode] using h
  simp [State.applySum, State.drawIfDecimal_binary _ hd]

/-- Settles O34. -/
theorem adcSbcFrame : Obligations.AdcSbcFrame := by
  intro q i s hi
  obtain ⟨r, hrun⟩ : ∃ r, exec i s = .next (s.applySum q r) := by
    obtain h | h := hi
    · exact ⟨_, by rw [exec_adc s h, State.opAdc_eq]⟩
    · exact ⟨_, by rw [exec_sbc s h, State.opSbc_eq]⟩
  refine ⟨_, hrun, ?high, ?n, ?z, ?keeps, State.writesNothing_read (q := q) (w := s.wA) (by simp [State.applySum]), ?frame⟩
  case high =>
    intro hw
    have h := State.takeSum_c_hi (q.read s.wA s).2.drawIfDecimal r
    simp only [State.applySum, State.advance, State.setPc_c, hw] at h ⊢
    rw [h]; simp
  case n => rw [State.applySum_acc, msb_trunc, State.applySum_flag]
  case z => rw [State.applySum_acc, State.applySum_flag]; simp [beq_eq_decide]
  case keeps =>
    intro f hf
    rw [State.applySum_flag]
    cases f <;> simp_all
  case frame => apply State.ext_fields <;> simp [State.applySum, State.advance]

/-! ### Binary -/

/-- The condition of R230 and R231 for the binary rules. -/
theorem State.decimalMode_eq_false (h : s.flag .d = false ∨ Config.decimalEnabled = false) : s.decimalMode = false := by
  simp only [State.decimalMode, Bool.and_eq_false_iff]; exact h

/-- Settles O30. -/
theorem adcAddsBinary : Obligations.AdcAddsBinary := by
  intro q i s hi hd
  have hb : s.decimalMode = false := State.decimalMode_eq_false hd
  have hsum : s.adcSum s.wA (q.read s.wA s).1 = addBinary s.wA (s.acc s.wA) (q.read s.wA s).1 (s.flag .c) := by
    simp [State.adcSum, hb]
  refine ⟨_, exec_adc s hi, ?_⟩
  rw [State.opAdc_eq, hsum, State.applySum_acc, addBinary_trunc, State.applySum_flag, State.applySum_flag]
  exact ⟨toNat_addBinary _ _ _ _, decide_eq_true_iff, addBinary_overflow _ _ _ _ (s.acc_lt _) (Source.read_lt s _ q),
    State.applySum_free q _ hb⟩

/-- Adding the complement subtracts: the result modulo `2^w` (R231). -/
theorem toNat_subBinary (w : Width) (a m : Word) (c : Bool) (hm : m.toNat < 2 ^ widthBits w) :
    ((subBinary w a m c).result.toNat : Int) = (a.toNat - m.toNat - (1 - c.toNat) : Int) % 2 ^ widthBits w := by
  rw [subBinary, toNat_addBinary, toNat_complement w m hm]
  have hc : c.toNat ≤ 1 := Bool.toNat_le c
  cases w <;> simp only [widthBits] at * <;> omega

/-- The carry out of a subtraction is that there is no borrow (R231). -/
theorem subBinary_carry (w : Width) (a m : Word) (c : Bool) (hm : m.toNat < 2 ^ widthBits w) :
    (subBinary w a m c).carry = true ↔ m.toNat + (1 - c.toNat) ≤ a.toNat := by
  have hc : c.toNat ≤ 1 := Bool.toNat_le c
  simp only [subBinary, addBinary, decide_eq_true_iff, toNat_complement w m hm]
  omega

/-- Settles O31. -/
theorem sbcSubtractsBinary : Obligations.SbcSubtractsBinary := by
  intro q i s hi hd
  have hb : s.decimalMode = false := State.decimalMode_eq_false hd
  have hm : (q.read s.wA s).1.toNat < 2 ^ widthBits s.wA := Source.read_lt s _ q
  have hsum : s.sbcSum s.wA (q.read s.wA s).1 = subBinary s.wA (s.acc s.wA) (q.read s.wA s).1 (s.flag .c) := by
    simp [State.sbcSum, hb]
  refine ⟨_, exec_sbc s hi, ?_⟩
  rw [State.opSbc_eq, hsum, State.applySum_acc, State.applySum_flag, State.applySum_flag,
    show trunc s.wA (subBinary s.wA _ _ _).result = _ from addBinary_trunc _ _ _ _]
  exact ⟨toNat_subBinary _ _ _ _ hm, subBinary_carry _ _ _ _ hm, subBinary_overflow _ _ _ _ (s.acc_lt _) hm,
    State.applySum_free q _ hb⟩

/-! ### Decimal -/

/-- A number below `2 * m` plus a carry of `m` splits as quotient and remainder by `m`. -/
theorem mod_and_carry {r n m : Nat} {c : Bool} (hr : r < m) (h : r + m * c.toNat = n) : r = n % m ∧ (c = true ↔ m ≤ n) := by
  cases c
  · simp only [Bool.toNat_false, Nat.mul_zero, Nat.add_zero] at h
    subst h
    exact ⟨(Nat.mod_eq_of_lt hr).symm, by simp; omega⟩
  · simp only [Bool.toNat_true, Nat.mul_one] at h
    subst h
    exact ⟨by rw [Nat.add_mod_right, Nat.mod_eq_of_lt hr], by simp⟩

/-- The same with a borrow: `c` says there was none. -/
theorem emod_and_borrow {r m : Nat} {n : Int} {c : Bool} (hr : r < m) (h : (r : Int) = n + m * (1 - c.toNat)) :
    (r : Int) = n % m ∧ (c = true ↔ 0 ≤ n) := by
  cases c
  · simp only [Bool.toNat_false] at h
    exact ⟨by rw [show n = r - m by push_cast at h; linarith, Int.sub_emod_right, Int.emod_eq_of_lt (by omega) (by omega)],
      by simp; push_cast at h; linarith⟩
  · simp only [Bool.toNat_true] at h
    exact ⟨by rw [show n = r by push_cast at h; linarith, Int.emod_eq_of_lt (by omega) (by omega)], by simp; push_cast at h; linarith⟩

/-- Decimal addition of packed BCD (R232): result and carry as numbers. -/
theorem addDecimal_bcd (w : Width) (k : Nat) (a m : Word) (c : Bool) (ha : bcdValid (widthBits w / 4) a.toNat = true)
    (hm : bcdValid (widthBits w / 4) m.toNat = true) :
    bcdValid (widthBits w / 4) (addDecimal w k a m c).result.toNat = true ∧
    bcdValue (widthBits w / 4) (addDecimal w k a m c).result.toNat =
      (bcdValue (widthBits w / 4) a.toNat + bcdValue (widthBits w / 4) m.toNat + c.toNat) % 10 ^ (widthBits w / 4) ∧
    ((addDecimal w k a m c).carry = true ↔
      10 ^ (widthBits w / 4) ≤ bcdValue (widthBits w / 4) a.toNat + bcdValue (widthBits w / 4) m.toNat + c.toNat) := by
  obtain ⟨⟨hres, -⟩, hcarry⟩ := addDecimal_spec w k a m c ha hm
  obtain ⟨hvalid, -, hvalue⟩ := addDigits_spec _ _ _ c ha hm
  rw [hres, hcarry]
  exact ⟨hvalid, mod_and_carry (bcdValue_lt _ _ hvalid) hvalue⟩

/-- Settles O32. -/
theorem adcAddsDecimal : Obligations.AdcAddsDecimal := by
  intro q i s hi hd ha hm
  refine ⟨_, exec_adc s hi, fun henabled => ?_⟩
  have hsum : s.adcSum s.wA (q.read s.wA s).1 = addDecimal s.wA s.free (s.acc s.wA) (q.read s.wA s).1 (s.flag .c) := by
    simp [State.adcSum, State.decimalMode, hd, henabled]
  rw [State.opAdc_eq, hsum, State.applySum_acc, addDecimal_trunc, State.applySum_flag]
  exact addDecimal_bcd _ _ _ _ _ ha hm

/-- Decimal subtraction of packed BCD (R233): result and carry as numbers. -/
theorem subDecimal_bcd (w : Width) (k : Nat) (a m : Word) (c : Bool) (hw : m.toNat < 2 ^ widthBits w)
    (ha : bcdValid (widthBits w / 4) a.toNat = true) (hm : bcdValid (widthBits w / 4) m.toNat = true) :
    bcdValid (widthBits w / 4) (subDecimal w k a m c).result.toNat = true ∧
    (bcdValue (widthBits w / 4) (subDecimal w k a m c).result.toNat : Int) =
      (bcdValue (widthBits w / 4) a.toNat - bcdValue (widthBits w / 4) m.toNat - (1 - c.toNat) : Int) % 10 ^ (widthBits w / 4) ∧
    ((subDecimal w k a m c).carry = true ↔
      bcdValue (widthBits w / 4) m.toNat + (1 - c.toNat) ≤ bcdValue (widthBits w / 4) a.toNat) := by
  obtain ⟨⟨hres, -⟩, hcarry, hcompl⟩ := subDecimal_spec w k a m c hw ha hm
  obtain ⟨hvalid, -, hvalue⟩ := subDigits_spec _ _ _ _ c ha hm hcompl
  rw [hres, hcarry]
  generalize subDigits (widthBits w / 4) a.toNat (complement w m).toNat c = r at *
  have hc : c.toNat ≤ 1 := Bool.toNat_le c
  have hr : r.2.toNat ≤ 1 := Bool.toNat_le r.2
  have hint : (bcdValue (widthBits w / 4) r.1 : Int) =
      (bcdValue (widthBits w / 4) a.toNat - bcdValue (widthBits w / 4) m.toNat - (1 - c.toNat) : Int) +
        (10 ^ (widthBits w / 4) : Nat) * (1 - r.2.toNat) := by
    have h := congrArg (Nat.cast (R := Int)) hvalue
    push_cast [Nat.cast_sub hr] at h ⊢
    linarith
  obtain ⟨hmod, hborrow⟩ := emod_and_borrow (bcdValue_lt _ _ hvalid) hint
  exact ⟨hvalid, by simpa using hmod, by rw [hborrow]; omega⟩

/-- Settles O33. -/
theorem sbcSubtractsDecimal : Obligations.SbcSubtractsDecimal := by
  intro q i s hi hd ha hm
  have hw : (q.read s.wA s).1.toNat < 2 ^ widthBits s.wA := Source.read_lt s _ q
  refine ⟨_, exec_sbc s hi, fun henabled => ?_⟩
  have hsum : s.sbcSum s.wA (q.read s.wA s).1 = subDecimal s.wA s.free (s.acc s.wA) (q.read s.wA s).1 (s.flag .c) := by
    simp [State.sbcSum, State.decimalMode, hd, henabled]
  rw [State.opSbc_eq, hsum, State.applySum_acc, subDecimal_trunc _ _ _ _ _ hw, State.applySum_flag]
  exact subDecimal_bcd _ _ _ _ _ hw ha hm

end Sys2Proof.Machine
end

section
/-! Instructions that write a memory operand: the stores (R173 to R176) and the read-modify-write instructions (R234, R237, R254 to
R260), whose other operand is the accumulator. -/

namespace Sys2Proof.Machine

variable {s t u : State} {w : Width}

/-! ### Stores -/

/-- A store instruction: `v` at width `w` goes to the operand (R159), and nothing else changes but `PC`. -/
theorem State.stores_advance_store (s : State) (w : Width) (m : Mode) (v : Word) :
    (m.store w v s).advance m.length = { s with pc := s.pc + BitVec.ofNat 16 m.length, sys := ((m.store w v s).advance m.length).sys } ∧
      s.stores ((m.store w v s).advance m.length) (widthBytes w) (m.resolve s).1.addr (byteOf v) := by
  refine ⟨?_, State.stores_congr (State.writeW_stores (Mode.resolve_sys s m) w _ v) (by simp [Mode.store])⟩
  apply State.ext_fields <;> simp [State.advance]

/-- Settles O21: the four mnemonics store their value truncated to the width, of which `State.stores` sees the bytes. -/
theorem storesWriteOperand : Obligations.StoresWriteOperand := by
  intro m i s w v hi
  obtain ⟨u, hrun, hbytes⟩ : ∃ u, exec i s = .next ((m.store w u s).advance m.length) ∧
      ∀ k < widthBytes w, byteOf v k = byteOf u k := by
    obtain ⟨h, rfl, rfl⟩ | ⟨h, rfl, rfl⟩ | ⟨h, rfl, rfl⟩ | ⟨h, rfl, rfl⟩ := hi
    · exact ⟨_, exec_sta s h, fun k hk => (byteOf_trunc _ _ hk).symm⟩
    · exact ⟨_, exec_stx s h, fun k hk => (byteOf_trunc _ _ hk).symm⟩
    · exact ⟨_, exec_sty s h, fun k hk => (byteOf_trunc _ _ hk).symm⟩
    · exact ⟨_, exec_stz s h, fun _ _ => rfl⟩
  obtain ⟨hframe, hstores⟩ := s.stores_advance_store w m u
  exact ⟨_, hrun, hframe, State.stores_congr_fun hstores (fun _ _ => rfl) hbytes⟩

/-! ### INC and DEC -/

/-- INC and DEC: the operand becomes `g` of it, N and Z are those of the new value (R234, R237). -/
def State.count (g : Word → Word) (p : Place) (s : State) : State :=
  ((p.modify s.wA g s).2.setNZ s.wA (g (p.value s.wA s))).advance p.length

theorem State.opInc_eq (s : State) (p : Place) : s.opInc p = s.count (incValue s.wA) p := by
  rw [State.opInc, State.count, Place.modify_fst]

theorem State.opDec_eq (s : State) (p : Place) : s.opDec p = s.count (decValue s.wA) p := by
  rw [State.opDec, State.count, Place.modify_fst]

/-- What counting leaves, for any function that keeps to the width. -/
theorem State.count_spec (s : State) (g : Word → Word) (p : Place) (hg : ∀ v, trunc s.wA (g v) = g v) :
    s.leavesIn (s.count g p) s.wA p (g (p.value s.wA s)) ∧ s.setsNZ (s.count g p) s.wA (g (p.value s.wA s)) ∧
      s.count g p = { s with
        c := (s.count g p).c, p := (s.count g p).p, pc := s.pc + BitVec.ofNat 16 p.length, sys := (s.count g p).sys } := by
  refine ⟨Place.modify_leaves (by simp [State.count]) (by simp [State.count]) (hg _), ?_, ?_⟩
  · exact State.setsNZ_setNZ_advance (by simp) _ _ _
  · apply State.ext_fields <;> simp [State.count, State.advance]

/-- Settles O35. -/
theorem incDecOperands : Obligations.IncDecOperands := by
  intro p i s
  refine ⟨fun hi => ?inc, fun hi => ?dec⟩
  case inc =>
    rw [exec_inc s hi, State.opInc_eq]
    exact ⟨_, _, rfl, toNat_incValue _ _, s.count_spec _ p (incValue_trunc _)⟩
  case dec =>
    rw [exec_dec s hi, State.opDec_eq]
    refine ⟨_, _, rfl, ?_, s.count_spec _ p (decValue_trunc _)⟩
    have h := toNat_decValue s.wA (p.value s.wA s)
    cases hw : s.wA <;> rw [hw] at h <;> simp only [widthBits] at * <;> omega

/-! ### TRB and TSB -/

/-- TRB and TSB: Z from `Acc and M`, the operand becomes `g` of it (R254, R255). -/
def State.testAndModify (g : Word → Word) (m : Mode) (s : State) : State :=
  (((Place.mem m).modify s.wA g s).2.setFlag .z (s.acc s.wA &&& ((Source.mem m).read s.wA s).1 == 0)).advance m.length

/-- What testing and modifying leaves, the new bytes given by `byte`. -/
theorem State.testAndModify_spec (s : State) (g : Word → Word) (m : Mode) (byte : Nat → Byte)
    (hb : ∀ k < widthBytes s.wA, byte k = byteOf (g ((Source.mem m).read s.wA s).1) k) :
    s.testAndModify g m = { s with
        p := (s.testAndModify g m).p, pc := s.pc + BitVec.ofNat 16 m.length, sys := (s.testAndModify g m).sys } ∧
      s.keepsFlags (s.testAndModify g m) [.z] ∧
      (s.testAndModify g m).flag .z = decide (s.acc s.wA &&& ((Source.mem m).read s.wA s).1 = 0) ∧
      s.stores (s.testAndModify g m) (widthBytes s.wA) (m.resolve s).1.addr byte := by
  refine ⟨?frame, ?keeps, ?z, ?stores⟩
  case frame => apply State.ext_fields <;> simp [State.testAndModify, Place.modify, State.advance]
  case keeps =>
    intro f hf
    simp only [List.mem_singleton] at hf
    simp [State.testAndModify, State.flag_setFlag, hf]
  case z => simp [State.testAndModify, beq_eq_decide]
  case stores =>
    have h := State.writeWHighFirst_stores (Source.read_sys s s.wA (.mem m)) s.wA (m.resolve s).1 (g ((Source.mem m).read s.wA s).1)
    exact State.stores_congr_fun (State.stores_congr h (by simp [State.testAndModify, Place.modify, Source.read])) (fun _ _ => rfl) hb

/-- Settles O39. -/
theorem testAndResetOrSet : Obligations.TestAndResetOrSet := by
  intro m i s
  refine ⟨fun hi => ?trb, fun hi => ?tsb⟩
  case trb =>
    exact ⟨_, exec_trb s hi, s.testAndModify_spec (fun v => v &&& ~~~(s.acc s.wA)) m _
      fun k _ => by rw [byteOf_and, byteOf_not]⟩
  case tsb =>
    exact ⟨_, exec_tsb s hi, s.testAndModify_spec (fun v => v ||| s.acc s.wA) m _ fun k _ => by rw [byteOf_or]⟩

/-! ### Shifts and rotates -/

/-- The flags after a shift or rotate (R256 to R259). -/
theorem State.flag_shift (s : State) (f : Width → Bool → Word → Shifted) (p : Place) (g : Flag) : (s.shift f p).flag g =
    match g with
    | .z => trunc s.wA (f s.wA (s.flag .c) (p.value s.wA s)).value == 0
    | .n => msb s.wA (f s.wA (s.flag .c) (p.value s.wA s)).value
    | .c => (f s.wA (s.flag .c) (p.value s.wA s)).carry
    | g => s.flag g := by
  cases g <;> simp [State.shift, Place.modify_fst, State.flag_setNZ, State.flag_setFlag]

theorem toNat_shiftLeft_one (w : Width) (v : Word) : (trunc w (v <<< 1)).toNat = v.toNat * 2 % 2 ^ widthBits w := by
  have h := v.isLt
  rw [toNat_trunc, BitVec.toNat_shiftLeft, Nat.shiftLeft_eq]
  cases w <;> simp only [widthBits] <;> omega

theorem toNat_shiftRight_one (w : Width) {v : Word} (hv : trunc w v = v) : (trunc w v >>> 1).toNat = v.toNat / 2 := by
  rw [hv, BitVec.toNat_ushiftRight, Nat.shiftRight_eq_div_pow]

/-- ROL brings the old carry into the free bit 0 (R258). -/
theorem toNat_rolValue (w : Width) (c : Bool) (v : Word) :
    (rolValue w c v).value.toNat = v.toNat * 2 % 2 ^ widthBits w + c.toNat := by
  have hdiv : v.toNat * 2 % 2 ^ widthBits w = 2 ^ 1 * (v.toNat % 2 ^ (widthBits w - 1)) := by
    cases w <;> simp only [widthBits] <;> omega
  rw [rolValue, BitVec.toNat_or, toNat_shiftLeft_one, hdiv]
  cases c
  · simp
  · exact (Nat.two_pow_add_eq_or_of_lt (by decide) _).symm

/-- ROR brings the old carry into the free bit `w-1` (R259). -/
theorem toNat_rorValue (w : Width) (c : Bool) {v : Word} (hv : trunc w v = v) :
    (rorValue w c v).value.toNat = v.toNat / 2 + c.toNat * 2 ^ (widthBits w - 1) := by
  have hlt : v.toNat < 2 ^ widthBits w := hv ▸ trunc_lt w v
  have hhalf : v.toNat / 2 < 2 ^ (widthBits w - 1) := by cases w <;> simp only [widthBits] at * <;> omega
  rw [rorValue, BitVec.toNat_or, toNat_shiftRight_one w hv]
  cases c
  · simp
  · have htop : (BitVec.twoPow 16 (widthBits w - 1)).toNat = 2 ^ (widthBits w - 1) * 1 := by cases w <;> rfl
    rw [if_pos rfl, htop, Nat.or_comm, ← Nat.two_pow_add_eq_or_of_lt hhalf]
    simp [Nat.add_comm]

/-- A value below `2^w` keeps to the width. -/
theorem trunc_eq_of_lt {w : Width} {v : Word} (h : v.toNat < 2 ^ widthBits w) : trunc w v = v := by
  apply BitVec.eq_of_toNat_eq
  rw [toNat_trunc, Nat.mod_eq_of_lt h]

/-- Settles O40. -/
theorem shiftsAndRotates : Obligations.ShiftsAndRotates := by
  intro p i s n c hi
  have hv : trunc s.wA (p.value s.wA s) = p.value s.wA s := Place.value_trunc s s.wA p
  have hlt : (p.value s.wA s).toNat < 2 ^ widthBits s.wA := Place.value_lt s s.wA p
  have hcarry : (s.flag .c).toNat ≤ 1 := Bool.toNat_le _
  obtain ⟨f, hrun, hn, hc, hfit⟩ : ∃ f : Width → Bool → Word → Shifted, exec i s = .next (s.shift f p) ∧
      (f s.wA (s.flag .c) (p.value s.wA s)).value.toNat = n ∧ (f s.wA (s.flag .c) (p.value s.wA s)).carry = c ∧
      n < 2 ^ widthBits s.wA := by
    obtain ⟨h, rfl, rfl⟩ | ⟨h, rfl, rfl⟩ | ⟨h, rfl, rfl⟩ | ⟨h, rfl, rfl⟩ := hi
    · exact ⟨aslValue, exec_asl s h, toNat_shiftLeft_one _ _, rfl, Nat.mod_lt _ (by positivity)⟩
    · exact ⟨lsrValue, exec_lsr s h, toNat_shiftRight_one _ hv, rfl, by omega⟩
    · refine ⟨rolValue, exec_rol s h, toNat_rolValue _ _ _, rfl, ?_⟩
      cases hw : s.wA <;> simp only [widthBits] <;> omega
    · refine ⟨rorValue, exec_ror s h, toNat_rorValue _ _ hv, rfl, ?_⟩
      generalize (s.flag .c).toNat = b at *
      generalize (p.value s.wA s).toNat = m at *
      cases hw : s.wA <;> rw [hw] at hlt <;> simp only [widthBits] at * <;> omega
  have htrunc : trunc s.wA (f s.wA (s.flag .c) (p.value s.wA s)).value = (f s.wA (s.flag .c) (p.value s.wA s)).value :=
    trunc_eq_of_lt (hn ▸ hfit)
  refine ⟨_, _, hrun, hn, ?leaves, ?carry, ?n, ?z, ?keeps, ?frame⟩
  case leaves =>
    exact Place.modify_leaves (g := fun v => (f s.wA (s.flag .c) v).value) (by simp [State.shift]) (by simp [State.shift]) htrunc
  case carry => rw [State.flag_shift]; exact hc
  case n => rw [State.flag_shift]
  case z => rw [State.flag_shift, htrunc]; simp [beq_eq_decide]
  case keeps =>
    intro g hg
    rw [State.flag_shift]
    cases g <;> simp_all
  case frame => apply State.ext_fields <;> simp [State.shift, State.advance]

end Sys2Proof.Machine
end

section
/-! Pushes and pulls (R200 to R215). The values pulled and the bytes stored are in the laws of the stack; a push followed by its pull is the
two statements put together. -/

namespace Sys2Proof.Machine

variable {s t u : State} {w : Width}

/-! ### Pushes -/

/-- Settles O24. -/
theorem registerPushes : Obligations.RegisterPushes := by
  intro s
  have hword (w : Width) (v : Word) :
      (s.pushW w v).advance 1 =
          { s with sp := s.spDown (widthBytes w), pc := s.pc + 1, sys := ((s.pushW w v).advance 1).sys } ∧
        s.stores ((s.pushW w v).advance 1) (widthBytes w) s.stackBelow (pushedByte w v) := by
    refine ⟨?_, State.stores_congr (s.pushW_stores w v) (by simp)⟩
    apply State.ext_fields <;> simp [State.pushW_sp, State.advance]
  have hbyte (v : Byte) : (s.push8 v).advance 1 = { s with sp := s.spDown 1, pc := s.pc + 1, sys := ((s.push8 v).advance 1).sys } ∧
      s.stores ((s.push8 v).advance 1) 1 s.stackBelow (fun _ => v) := by
    refine ⟨?_, State.stores_congr (s.push8_stores_one v) (by simp)⟩
    apply State.ext_fields <;> simp [State.advance]
  exact ⟨⟨_, rfl, hword s.wA s.c⟩, ⟨_, rfl, hword s.wX s.x⟩, ⟨_, rfl, hword s.wX s.y⟩, ⟨_, rfl, hbyte s.dbr⟩,
    ⟨_, rfl, hbyte s.pbr⟩, ⟨_, rfl, hbyte s.p⟩⟩

/-- A 16-bit push by the 16-bit stack arithmetic, after reads that left `t` (R69, R204, R213 to R215). -/
theorem State.push16N_advance (h : s.sys.readOf t.sys) (ht : t = s.setSys t.sys) (v : Word) (n : Nat) :
    ((t.push16N v).fixStackPage).advance n = { s with
        sp := s.spFixed (s.sp - 2), pc := s.pc + BitVec.ofNat 16 n, sys := (((t.push16N v).fixStackPage).advance n).sys } ∧
      s.stores (((t.push16N v).fixStackPage).advance n) 2 (fun k => addr24 0 (s.sp - BitVec.ofNat 16 k)) (pushedByte .w16 v) := by
  refine ⟨?_, State.stores_congr (State.push16N_stores h (by rw [ht]; rfl) v) (by simp)⟩
  rw [ht]
  apply State.ext_fields <;> simp [State.fixStackPage_sp, State.spFixed, State.advance]

/-- Reading a word changes only what stands behind the bus. -/
theorem State.read16_eq_setSys (s : State) (l : Loc) : (s.read16 l).2 = s.setSys (s.read16 l).2.sys := by
  apply State.ext_fields <;> simp

/-- Settles O25. -/
theorem wordPushes : Obligations.WordPushes := by
  intro s
  have hpush (v : Word) (n : Nat) := State.push16N_advance (System.readOf.refl s.sys) (t := s) rfl v n
  refine ⟨⟨_, rfl, hpush s.d 1⟩, fun v => ⟨_, rfl, hpush v 3⟩, fun d => ?pei, fun disp => ⟨_, rfl, hpush (s.pc + 3 + disp) 3⟩⟩
  obtain ⟨hframe, hstores⟩ := State.push16N_advance (s.read16_sys (s.directNoWrap d)) (s.read16_eq_setSys _)
    (s.read16 (s.directNoWrap d)).1 2
  refine ⟨_, rfl, hframe, hstores, fun v hv => ?_⟩
  rw [State.read16_of_peek (l := s.directNoWrap d) (v := v) (by simpa [State.directNoWrap, Loc.addr] using hv)]

/-! ### Pulls -/

theorem State.pullW_of_byte {b : Byte} (hw : w = .w8) (h : s.sys.peek (s.stackAbove 1) = some b) : (s.pullW w).1 = zext16 b := by
  rw [hw, State.pullW_w8_of_peek h]

theorem State.pullW_of_word {v : Word} (hw : w = .w16) (h : s.sys.showsWord (s.stackAbove 1) (s.stackAbove 2) v) :
    (s.pullW w).1 = v := by
  rw [hw, State.pullW_w16_of_peek h]

/-- Settles O26. -/
theorem registerPulls : Obligations.RegisterPulls := by
  intro s
  refine ⟨⟨_, (s.pullW s.wA).1, rfl, ?acc, State.setsNZ_setNZ_advance (by simp) _ _ _, ?accFrame, ?accReads,
      fun b => State.pullW_of_byte, fun v => State.pullW_of_word⟩,
    ⟨_, rfl, ?xNZ, ?xFrame, ?xReads, ?x8, ?x16⟩, ⟨_, rfl, ?yNZ, ?yFrame, ?yReads, ?y8, ?y16⟩⟩
  case acc => exact State.accIs_setAcc (s.pullW_trunc s.wA) (u := (s.pullW s.wA).2) (by simp) (by simp [State.opPla])
  case xNZ => simpa [State.opPlx] using State.setsNZ_setNZ_advance (u := (s.pullW s.wX).2.setX (s.pullW s.wX).1) (by simp) s.wX _ 1
  case yNZ => simpa [State.opPly] using State.setsNZ_setNZ_advance (u := (s.pullW s.wX).2.setY (s.pullW s.wX).1) (by simp) s.wX _ 1
  case accFrame => apply State.ext_fields <;> simp [State.opPla, State.advance]
  case xFrame => apply State.ext_fields <;> simp [State.opPlx, State.advance]
  case yFrame => apply State.ext_fields <;> simp [State.opPly, State.advance]
  case accReads => exact State.writesNothing_of (by simpa [State.opPla] using s.pullW_sys s.wA)
  case xReads => exact State.writesNothing_of (by simpa [State.opPlx] using s.pullW_sys s.wX)
  case yReads => exact State.writesNothing_of (by simpa [State.opPly] using s.pullW_sys s.wX)
  case x8 => intro b hw h; simpa [State.opPlx] using State.pullW_of_byte hw h
  case x16 => intro v hw h; simpa [State.opPlx] using State.pullW_of_word hw h
  case y8 => intro b hw h; simpa [State.opPly] using State.pullW_of_byte hw h
  case y16 => intro v hw h; simpa [State.opPly] using State.pullW_of_word hw h

/-- Settles O27. -/
theorem bankAndDirectPulls : Obligations.BankAndDirectPulls := by
  intro s
  refine ⟨⟨_, rfl, ?bankNZ, ?bankFrame, ?bankReads, ?bank⟩, ⟨_, rfl, ?dNZ, ?dFrame, ?dReads, ?d⟩⟩
  case bankNZ => exact State.setsNZ_of (by simpa [State.opPlb] using State.setNZ_p_congr (by simp))
  case dNZ => exact State.setsNZ_of (by simpa [State.opPld] using State.setNZ_p_congr (by simp))
  case bankFrame => apply State.ext_fields <;> simp [State.opPlb, State.fixStackPage_sp, State.spFixed, State.advance]
  case dFrame => apply State.ext_fields <;> simp [State.opPld, State.fixStackPage_sp, State.spFixed, State.advance]
  case bankReads => exact State.writesNothing_of (by simpa [State.opPlb] using s.pull8N_sys)
  case dReads => exact State.writesNothing_of (by simpa [State.opPld] using s.pull16N_sys)
  case bank => intro b h; simp [State.opPlb, State.pull8N_of_peek h]
  case d => intro v h; simp [State.opPld, State.pull16N_of_peek h]

/-- Settles O28. -/
theorem plpPullsStatus : Obligations.PlpPullsStatus := by
  intro s
  refine ⟨_, rfl, ?reads, ?frame, ?sp, ?flags, ?x, ?y⟩
  case reads => exact State.writesNothing_of (by simpa [State.opPlp] using s.pull8_sys)
  case frame => apply State.ext_fields <;> simp [State.opPlp, State.advance]
  case sp => simp [State.opPlp, State.normalize_sp]
  case flags =>
    intro b h f
    have hnorm := State.normalize_flag ((s.setSp (s.spUp 1)).setP b) f
    simpa [State.opPlp, State.pull8_of_peek h, State.flag] using hnorm
  case x => simp [State.opPlp, State.normalize_x]
  case y => simp [State.opPlp, State.normalize_y]

/-! ### A push and its pull -/

/-- Where all the addresses are RAM, the stored bytes are what memory shows. -/
theorem State.peek_of_stores {n : Nat} {addr : Nat → Addr} {byte : Nat → Byte} (h : s.stores t n addr byte)
    (hram : ∀ k < n, ∃ j, route s.sys.romMap (addr k) = .ram j) {k : Nat} (hk : k < n) : t.sys.peek (addr k) = some (byte k) := by
  obtain ⟨hbytes, -, -⟩ := h (fun k hk hio => by obtain ⟨j, hj⟩ := hram k hk; simp [hj] at hio)
  exact hbytes k hk (hram k hk)

/-- `Acc` and, at 8 bits, `B` make up `C` (R20). -/
theorem State.c_eq_of_acc (h : t.acc w = s.acc w) (hb : w = .w8 → hi8 t.c = hi8 s.c) : t.c = s.c := by
  cases w with
  | w8 =>
    have hlo : lo8 t.c = lo8 s.c := by simpa [State.acc] using congrArg lo8 h
    rw [← join16_hi_lo t.c, hlo, hb rfl, join16_hi_lo]
  | w16 => exact h

/-- Settles O29: PHA as in `registerPushes`, then PLA as in `registerPulls` on the bytes it stored. -/
theorem pushThenPull : Obligations.PushThenPull := by
  intro s hram
  obtain ⟨⟨t, hpush, hframe, hstores⟩, -⟩ := registerPushes s
  obtain ⟨⟨u, v, hpull, ⟨hacc, hb⟩, ⟨hn, hz, hkeeps⟩, hframe', -, hbyte, hword⟩, -⟩ := registerPulls t
  have hc : t.c = s.c := by rw [hframe]
  have he : t.e = s.e := by rw [hframe]
  have hp : t.p = s.p := by rw [hframe]
  have hsp : t.sp = s.spDown (widthBytes s.wA) := by rw [hframe]
  have hw : t.wA = s.wA := by simp only [State.wA, State.flag, hp]
  have hshows {k : Nat} (hk : k < widthBytes s.wA) :
      t.sys.peek (t.stackAbove (widthBytes s.wA - k)) = some (pushedByte s.wA s.c k) := by
    rw [State.stackAbove_of_spDown he hsp (by omega), Nat.sub_sub_self hk.le]
    exact State.peek_of_stores hstores (fun k hk => hram k (by cases hw' : s.wA <;> simp [hw', widthBytes] at hk <;> omega)) hk
  have hv : v = s.acc s.wA := by
    cases hw' : s.wA with
    | w8 =>
      rw [hw'] at hshows
      exact hbyte _ (hw.trans hw') (hshows (k := 0) (by decide))
    | w16 =>
      rw [hw'] at hshows
      exact hword _ (hw.trans hw') ⟨hshows (k := 1) (by decide), hshows (k := 0) (by decide)⟩
  rw [hw] at hacc hb hn hz
  refine ⟨t, u, hpush, hpull, ?c, ?sp, ?pc, ?n, ?z, ?keeps⟩
  case c => exact State.c_eq_of_acc (hacc.trans hv) fun h => (hb h).trans (by rw [hc])
  case sp => rw [hframe', hw]; exact State.spUp_of_spDown he hsp
  case pc => rw [hframe', hframe]; exact word_add_add s.pc 1 1
  case n => rw [hn, hv]; exact msb_trunc _ _
  case z => rw [hz, hv]; simp [State.acc]
  case keeps => intro f hf; rw [hkeeps f hf]; exact State.flag_eq_of_p hp f

end Sys2Proof.Machine
end

section
/-! Jumps, calls and returns (R300 to R305). -/

namespace Sys2Proof.Machine

variable {s t u : State}

/-! ### Jumps -/

/-- Settles O42. -/
theorem jumpTargets : Obligations.JumpTargets := by
  intro s
  refine ⟨fun a => rfl, fun a => rfl, fun a => ⟨_, rfl, ?frame, ?reads, ?pc⟩, fun a => ⟨_, rfl, ?frameX, ?readsX, ?pcX⟩,
    fun a => ⟨_, rfl, ?frameL, ?readsL, ?pcL⟩⟩
  case frame => apply State.ext_fields <;> simp [State.opJmpInd]
  case frameX => apply State.ext_fields <;> simp [State.opJmpIndX]
  case frameL => apply State.ext_fields <;> simp [State.opJmlInd]
  case reads => exact State.writesNothing_of (by simpa [State.opJmpInd] using s.read16_sys _)
  case readsX => exact State.writesNothing_of (by simpa [State.opJmpIndX] using s.read16_sys _)
  case readsL => exact State.writesNothing_of (by simpa [State.opJmlInd] using s.read24_sys _)
  case pc =>
    intro v h
    rw [State.opJmpInd, State.read16_of_peek (v := v) (by simpa [Loc.addr] using h)]; rfl
  case pcX =>
    intro v h
    rw [State.opJmpIndX, State.read16_of_peek (v := v) (by simpa [Loc.addr] using h)]; rfl
  case pcL =>
    intro v bank h hbank
    rw [State.opJmlInd, State.read24_of_peek (v := v) (b := bank) (by simpa [Loc.addr] using h) (by simpa [Loc.addr] using hbank)]
    simp

/-! ### Calls -/

theorem word_sub_sub (a : Word) (i j : Nat) : a - BitVec.ofNat 16 i - BitVec.ofNat 16 j = a - BitVec.ofNat 16 (i + j) := by
  apply BitVec.eq_of_toNat_eq
  simp only [BitVec.toNat_sub, BitVec.toNat_ofNat]
  omega

/-- What JSL pushes: the program bank, then the return address, high byte first (R303). -/
theorem State.jslPush_stores (s : State) (v : Word) : s.stores ((s.push8N s.pbr).push16N v) 3
    (fun k => addr24 0 (s.sp - BitVec.ofNat 16 k)) (fun k => if k = 0 then s.pbr else pushedByte .w16 v (k - 1)) := by
  have hbank : s.stores (s.push8N s.pbr) 1 (fun k => addr24 0 (s.sp - BitVec.ofNat 16 k))
      (fun k => if k = 0 then s.pbr else pushedByte .w16 v (k - 1)) :=
    State.push8N_stores (State.stores_zero (System.readOf.refl _)) (by omega) rfl (by simp) rfl
  have hhigh := State.push8N_stores hbank (by omega) (by simp) (by simp) (v := hi8 v) rfl
  exact State.push8N_stores (n := 2) hhigh (by omega) (by simp) (word_sub_sub s.sp 1 1) (v := lo8 v) rfl

/-- Settles O43. -/
theorem callsPushReturnAddress : Obligations.CallsPushReturnAddress := by
  intro s
  refine ⟨fun a => ⟨_, rfl, ?jsr, ?jsrStores⟩, fun a => ⟨_, rfl, ?jsrX, ?jsrXStores, ?jsrXPc⟩,
    fun a => ⟨_, rfl, ?jsl, ?jslStores⟩⟩
  case jsr => apply State.ext_fields <;> simp [State.opJsr, State.push16_sp]
  case jsrStores => exact State.stores_congr (s.pushW_stores .w16 (s.pc + 2)) (by simp [State.opJsr, State.pushW])
  case jsrX => apply State.ext_fields <;> simp [State.opJsrIndX, State.fixStackPage_sp, State.spFixed]
  case jsrXStores =>
    have hpush := State.push16N_stores (System.readOf.refl s.sys) (t := s) rfl (s.pc + 2)
    have hread := State.read16_sys ((s.push16N (s.pc + 2)).fixStackPage) (.prog s.pbr (a + s.x))
    exact State.stores_then_read hpush (by simpa [State.opJsrIndX] using hread)
  case jsrXPc =>
    intro v h
    have hread := State.read16_sys ((s.push16N (s.pc + 2)).fixStackPage) (.prog s.pbr (a + s.x))
    simp only [State.opJsrIndX, State.setPc_sys, System.showsWord, hread.peek] at h
    rw [State.opJsrIndX, State.read16_of_peek (v := v) (by simpa [Loc.addr, System.showsWord] using h)]; rfl
  case jsl =>
    have hsp : s.sp - 1#16 - 2#16 = s.sp - 3#16 := word_sub_sub s.sp 1 2
    apply State.ext_fields <;> simp [State.opJsl, State.fixStackPage_sp, State.spFixed, hsp]
  case jslStores => exact State.stores_congr (s.jslPush_stores (s.pc + 3)) (by simp [State.opJsl])

/-! ### Returns -/

/-- Settles O44. -/
theorem returnsPullAddress : Obligations.ReturnsPullAddress := by
  intro s
  refine ⟨⟨_, rfl, ?rts, ?rtsReads, ?rtsPc⟩, ⟨_, rfl, ?rtl, ?rtlReads, ?rtlPc⟩⟩
  case rts => apply State.ext_fields <;> simp [State.opRts]
  case rtsReads => exact State.writesNothing_of (by simpa [State.opRts] using s.pull16_sys)
  case rtsPc =>
    intro v h
    rw [State.opRts, State.pull16_of_peek h]; rfl
  case rtl =>
    have hsp : s.sp + 2#16 + 1#16 = s.sp + 3#16 := word_add_add s.sp 2 1
    apply State.ext_fields <;> simp [State.opRtl, State.fixStackPage_sp, State.spFixed, hsp]
  case rtlReads =>
    refine State.writesNothing_of (s.pull16N_sys.trans ?_)
    simpa [State.opRtl] using State.pull8N_sys (s.pull16N.2.setPc (s.pull16N.1 + 1))
  case rtlPc =>
    intro v bank h hbank
    have hthird : s.sp + 2#16 + 1#16 = s.sp + 3#16 := word_add_add s.sp 2 1
    rw [State.opRtl, State.pull16N_of_peek h]
    have hpull := State.pull8N_of_peek (s := (s.setSp (s.sp + 2)).setPc (v + 1)) (b := bank) (by simpa [hthird] using hbank)
    simp only [hpull]
    simp

/-- The return address a call pushed above `a1`, as the word a return pulls. -/
theorem System.showsWord_of_pushed {y : System} {a0 a1 : Addr} {v : Word} (h1 : y.peek a0 = some (pushedByte .w16 v 1))
    (h0 : y.peek a1 = some (pushedByte .w16 v 0)) : y.showsWord a0 a1 v := ⟨h1, h0⟩

/-- Settles O45: the call as in `callsPushReturnAddress`, then the return as in `returnsPullAddress` on the bytes it stored. -/
theorem callThenReturn : Obligations.CallThenReturn := by
  intro s a l hram
  obtain ⟨hjsr, -, hjsl⟩ := callsPushReturnAddress s
  constructor
  · obtain ⟨t, hcall, hframe, hstores⟩ := hjsr a
    obtain ⟨⟨u, hret, hframe', -, hpc⟩, -⟩ := returnsPullAddress t
    have he : t.e = s.e := by rw [hframe]
    have hsp : t.sp = s.spDown 2 := by rw [hframe]
    have hshows {k : Nat} (hk : k < 2) : t.sys.peek (t.stackAbove (2 - k)) = some (pushedByte .w16 (s.pc + 2) k) := by
      rw [State.stackAbove_of_spDown he hsp (by omega), Nat.sub_sub_self hk.le]
      exact State.peek_of_stores hstores (fun k hk => hram k (by omega)) hk
    refine ⟨t, u, hcall, hret, ?_, ?_, ?_⟩
    · rw [hpc _ (System.showsWord_of_pushed (hshows (k := 1) (by decide)) (hshows (k := 0) (by decide)))]
      exact word_add_add s.pc 2 1
    · rw [hframe', hframe]
    · rw [hframe']; exact State.spUp_of_spDown he hsp
  · intro hnative
    obtain ⟨t, hcall, hframe, hstores⟩ := hjsl l
    obtain ⟨-, u, hret, hframe', -, hpc⟩ := returnsPullAddress t
    have he : t.e = false := by rw [hframe, ← hnative]
    have hsp : t.sp = s.sp - 3 := by rw [hframe]; simp [State.spFixed, hnative]
    have hshows {j k : Nat} (hjk : j + k = 3) (hj : 0 < j) : t.sys.peek (addr24 0 (t.sp + BitVec.ofNat 16 j)) =
        some (if k = 0 then s.pbr else pushedByte .w16 (s.pc + 3) (k - 1)) := by
      have hbelow : t.sp + BitVec.ofNat 16 j = s.sp - BitVec.ofNat 16 k := by
        obtain rfl : k = 3 - j := by omega
        obtain rfl | rfl | rfl : j = 1 ∨ j = 2 ∨ j = 3 := by omega
        all_goals rw [hsp]; bv_omega
      rw [hbelow]
      refine State.peek_of_stores hstores (fun k hk => ?_) (by omega)
      simpa [State.stackBelow, hnative] using hram k hk
    obtain ⟨hpc', hpbr⟩ := hpc _ _ (System.showsWord_of_pushed (hshows (j := 1) (k := 2) rfl (by decide))
      (hshows (j := 2) (k := 1) rfl (by decide))) (hshows (j := 3) (k := 0) rfl (by decide))
    refine ⟨t, u, hcall, hret, ?_, ?_, ?_⟩
    · rw [hpc']; exact word_add_add s.pc 3 1
    · rw [hpbr]; rfl
    · rw [hframe']; simp [State.spFixed, he, hsp]

end Sys2Proof.Machine
end

section
/-! System instructions and exceptions (R330 to R346, R380 to R382, R385, R306). -/

namespace Sys2Proof.Machine

variable {s t u : State}

/-! ### NOP, WDM, STP, WAI, XBA and the flag instructions -/

/-- N and Z of a byte at 8 bits (R14). -/
theorem msb_w8_zext16 (b : Byte) : msb .w8 (zext16 b) = b.getLsbD 7 := by simp [msb, widthBits, zext16]

theorem trunc_w8_zext16_eq_zero (b : Byte) : trunc .w8 (zext16 b) = 0 ↔ b = 0 := by
  constructor
  · intro h
    have hlo := congrArg lo8 h
    rwa [lo8_trunc, lo8_zext16] at hlo
  · rintro rfl; rfl

/-- Settles O47. -/
theorem nopWdmStpWaiXba : Obligations.NopWdmStpWaiXba := by
  refine ⟨rfl, fun g => rfl, rfl, rfl, rfl, fun s => ⟨rfl, fun g => rfl, rfl, rfl, _, rfl, ?lo, ?hi, ?n, ?z, ?keeps, ?frame⟩⟩
  case lo => simp [State.opXba]
  case hi => simp [State.opXba]
  case n => simp [State.opXba, State.flag_setNZ, msb_w8_zext16]
  case z =>
    have h := trunc_w8_zext16_eq_zero (hi8 s.c)
    simp only [State.opXba, State.advance, State.setPc_flag, State.flag_setNZ, if_pos, beq_eq_decide, h]
  case keeps =>
    intro f hf
    simp only [List.mem_cons, List.not_mem_nil, or_false, not_or] at hf
    simp [State.opXba, State.flag_setNZ, hf]
  case frame => apply State.ext_fields <;> simp [State.opXba, State.advance]

/-- What writing one flag leaves (R338 to R344). -/
theorem State.setFlag_advance_spec (s : State) (f : Flag) (b : Bool) : ((s.setFlag f b).advance 1).flag f = b ∧
    s.keepsFlags ((s.setFlag f b).advance 1) [f] ∧
    (s.setFlag f b).advance 1 = { s with p := ((s.setFlag f b).advance 1).p, pc := s.pc + 1 } := by
  refine ⟨by simp, fun g hg => ?_, rfl⟩
  simp only [List.mem_singleton] at hg
  simp [State.flag_setFlag, hg]

/-- Settles O49: the seven rows of the list are seven cases. -/
theorem flagInstructions : Obligations.FlagInstructions := by
  intro i op f b h
  simp only [List.mem_cons, Prod.mk.injEq, List.not_mem_nil, or_false] at h
  obtain ⟨rfl, rfl, rfl, rfl⟩ | ⟨rfl, rfl, rfl, rfl⟩ | ⟨rfl, rfl, rfl, rfl⟩ | ⟨rfl, rfl, rfl, rfl⟩ | ⟨rfl, rfl, rfl, rfl⟩ |
    ⟨rfl, rfl, rfl, rfl⟩ | ⟨rfl, rfl, rfl, rfl⟩ := h
  all_goals exact ⟨rfl, fun s => ⟨_, rfl, s.setFlag_advance_spec _ _⟩⟩

/-! ### XCE, REP, SEP -/

/-- A state that differs from `s` in `P` and `E` only, normalized at the end of its instruction (R41). -/
theorem State.normalize_advance_spec (hu : u = { s with p := u.p, e := u.e }) (n : Nat) :
    (u.normalize.advance n).e = u.e ∧
    (∀ f, (u.normalize.advance n).flag f = if f = .m ∨ f = .x then u.e || u.flag f else u.flag f) ∧
    (u.normalize.advance n).sp = (if u.e then join16 1 (lo8 s.sp) else s.sp) ∧
    (u.normalize.advance n).x = (if (u.normalize.advance n).flag .x then zext16 (lo8 s.x) else s.x) ∧
    (u.normalize.advance n).y = (if (u.normalize.advance n).flag .x then zext16 (lo8 s.y) else s.y) ∧
    u.normalize.advance n = { s with
      p := (u.normalize.advance n).p, e := (u.normalize.advance n).e, sp := (u.normalize.advance n).sp,
      x := (u.normalize.advance n).x, y := (u.normalize.advance n).y, pc := s.pc + BitVec.ofNat 16 n } := by
  have hsp : u.sp = s.sp := by rw [hu]
  have hx : u.x = s.x := by rw [hu]
  have hy : u.y = s.y := by rw [hu]
  refine ⟨by simp, fun f => by simp [State.normalize_flag], by simp [State.normalize_sp, hsp], ?_, ?_, ?_⟩
  · simpa [hx] using u.normalize_x
  · simpa [hy] using u.normalize_y
  · apply State.ext_fields <;> simp [State.advance] <;> rw [hu]

/-- Settles O48. -/
theorem modeAndStatusBits : Obligations.ModeAndStatusBits := by
  intro s i e want hi
  obtain ⟨u, hrun, hu, rfl, rfl⟩ : ∃ u : State, exec i s = .next (u.normalize.advance (if i = .xce then 1 else 2)) ∧
      u = { s with p := u.p, e := u.e } ∧ u.e = e ∧ (fun f => u.flag f) = want := by
    obtain ⟨rfl, rfl, rfl⟩ | ⟨k, rfl, rfl, rfl⟩ | ⟨k, rfl, rfl, rfl⟩ := hi
    · exact ⟨(s.setFlag .c s.e).setE (s.flag .c), rfl, rfl, rfl, funext fun f => by simp [State.flag_setFlag]⟩
    · exact ⟨s.setP (s.p &&& ~~~k), rfl, rfl, rfl, funext fun f => by simp [State.flag, f.index_lt]⟩
    · exact ⟨s.setP (s.p ||| k), rfl, rfl, rfl, funext fun f => by simp [State.flag]⟩
  have hlen : (if i = .xce then 1 else 2 : Word) = BitVec.ofNat 16 (if i = .xce then 1 else 2) := by split <;> rfl
  rw [hlen]
  exact ⟨_, hrun, State.normalize_advance_spec hu _⟩

/-! ### Exceptions taken -/

/-- Settles O50. -/
theorem softwareInterrupts : Obligations.SoftwareInterrupts :=
  ⟨rfl, rfl, rfl, rfl, fun _ => ⟨rfl, rfl⟩, fun s _ =>
    ⟨rfl, rfl, ⟨_, rfl, s.interrupt_entersHandler .brk (s.pc + 2)⟩, ⟨_, rfl, s.interrupt_entersHandler .cop (s.pc + 2)⟩⟩⟩

/-- A pending NMI is taken whatever else is asked for, but reset (R381). -/
theorem step_of_nmi (hreset : s.resetRequested = false) (hstop : s.stopped = false) (hnmi : s.sample.nmiPending = true) :
    step s = .next (((s.sample.setWaiting false).setNmiPending false).interrupt .nmi s.pc) := by
  simp [step, State.action, hreset, hstop, hnmi, State.takeNmi]

theorem step_of_irq (hreset : s.resetRequested = false) (hstop : s.stopped = false) (hnmi : s.sample.nmiPending = false)
    (hirq : s.sample.irqLine = true) (hmask : s.flag .i = false) :
    step s = .next ((s.sample.setWaiting false).interrupt .irq s.pc) := by
  simp [step, State.action, hreset, hstop, hnmi, hirq, hmask, State.takeIrq]

/-- Settles O51. -/
theorem hardwareInterrupts : Obligations.HardwareInterrupts := by
  refine ⟨rfl, rfl, rfl, rfl, fun p => ⟨rfl, rfl⟩, fun s hreset hstop => ⟨fun hnmi => ?_, fun hnmi hirq hmask => ?_⟩⟩
  · exact ⟨_, step_of_nmi hreset hstop hnmi, State.interrupt_entersHandler _ _ _⟩
  · exact ⟨_, step_of_irq hreset hstop hnmi hirq hmask, State.interrupt_entersHandler _ _ _⟩

/-! ### RTI -/

theorem State.rtiStatus_sys (s : State) : s.sys.readOf s.rtiStatus.sys := by
  simpa [State.rtiStatus] using s.pull8_sys

/-- With `SH = $01` in emulation mode, normalizing the pulled status leaves `S` where the pull put it (R39, R70). -/
theorem State.rtiStatus_sp (h : s.e = true → hi8 s.sp = 1) : s.rtiStatus.sp = s.spUp 1 := by
  rw [State.rtiStatus, State.normalize_sp]
  cases he : s.e
  · simp [he]
  · simp [he, State.spUp, h he]

theorem State.rtiStatus_stackAbove (h : s.e = true → hi8 s.sp = 1) (k : Nat) : s.rtiStatus.stackAbove k = s.stackAbove (1 + k) := by
  rw [State.stackAbove_eq, State.stackAbove_eq, State.spUp_spUp (by simp) (State.rtiStatus_sp h)]

theorem State.returnFromInterrupt_pc (s : State) : s.returnFromInterrupt.pc = s.rtiStatus.pull16.1 := by
  unfold State.returnFromInterrupt State.rtiStatus; dsimp only; split <;> simp

/-- In native mode RTI pulls the program bank last (R306). -/
theorem State.returnFromInterrupt_pbr_native (h : s.e = false) :
    s.returnFromInterrupt.pbr = (s.rtiStatus.pull16.2.setPc s.rtiStatus.pull16.1).pull8.1 := by
  unfold State.returnFromInterrupt State.rtiStatus; simp [h]

theorem State.returnFromInterrupt_sys (s : State) : s.sys.readOf s.returnFromInterrupt.sys := by
  have hword : s.sys.readOf s.rtiStatus.pull16.2.sys := s.rtiStatus_sys.trans s.rtiStatus.pull16_sys
  unfold State.returnFromInterrupt
  dsimp only
  split
  · exact hword
  · exact hword.trans (State.pull8_sys (s.rtiStatus.pull16.2.setPc s.rtiStatus.pull16.1))

/-- Settles O52. -/
theorem rtiRestores : Obligations.RtiRestores := by
  intro s h
  refine ⟨_, rfl, State.writesNothing_of s.returnFromInterrupt_sys, ?sp, ?flags, ?pc, s.returnFromInterrupt_pbr, ?pbr, ?x, ?y, ?frame⟩
  case sp =>
    rw [State.returnFromInterrupt_sp, State.spUp_spUp (by simp) (State.rtiStatus_sp h)]
    cases s.e <;> rfl
  case flags =>
    intro b hb f
    have hnorm := State.normalize_flag ((s.setSp (s.spUp 1)).setP b) f
    rw [State.flag_eq_of_p s.returnFromInterrupt_p]
    simpa [State.rtiStatus, State.pull8_of_peek hb, State.flag] using hnorm
  case pc =>
    intro v hv
    have hword : s.rtiStatus.sys.showsWord (s.rtiStatus.stackAbove 1) (s.rtiStatus.stackAbove 2) v := by
      rw [State.rtiStatus_stackAbove h, State.rtiStatus_stackAbove h, System.showsWord, s.rtiStatus_sys.peek, s.rtiStatus_sys.peek]
      exact hv
    rw [State.returnFromInterrupt_pc, State.pull16_of_peek hword]
  case pbr =>
    intro k hnative hk
    have hsp : (s.rtiStatus.pull16.2.setPc s.rtiStatus.pull16.1).stackAbove 1 = s.stackAbove 4 := by
      rw [State.stackAbove_eq, State.spUp_spUp (s := s.rtiStatus) (n := 2) (by simp) (by simp), ← State.stackAbove_eq,
        State.rtiStatus_stackAbove h]
    have hsys := s.rtiStatus_sys.trans s.rtiStatus.pull16_sys
    rw [State.returnFromInterrupt_pbr_native hnative, State.pull8_of_peek (b := k) (by rw [hsp, State.setPc_sys, hsys.peek]; exact hk)]
  case x =>
    rw [State.returnFromInterrupt_x, State.flag_eq_of_p s.returnFromInterrupt_p]
    have hx : (s.pull8.2.setP s.pull8.1).x = s.x := by simp
    rw [← hx]
    exact State.normalize_x _
  case y =>
    rw [State.returnFromInterrupt_y, State.flag_eq_of_p s.returnFromInterrupt_p]
    have hy : (s.pull8.2.setP s.pull8.1).y = s.y := by simp
    rw [← hy]
    exact State.normalize_y _
  case frame => apply State.ext_fields <;> simp

/-- An index register that obeys the width rule is as it was after its high byte is cleared under the same `P.x` (R22). -/
theorem index_normalized {flag : Bool} {v : Word} (h : flag = true → hi8 v = 0) : (if flag then zext16 (lo8 v) else v) = v := by
  cases flag
  · rfl
  · rw [if_pos rfl, zext16_eq_join16, ← h rfl, join16_hi_lo]

/-- Any exception taken in native mode on a stack in RAM, and RTI at once: the state is the one the exception was taken in (R380, R385). -/
theorem State.interrupt_then_rti (s : State) (kind : InterruptKind) (hnative : s.e = false) (hindex : s.indexInv)
    (hram : ∀ k < 4, ∃ j, route s.sys.romMap (s.stackBelow k) = .ram j) :
    ∃ u, exec .rti (s.interrupt kind s.pc) = .next u ∧ u = s.setSys u.sys := by
  obtain ⟨hframe, -⟩ := s.interrupt_entersHandler kind s.pc
  have hstores := s.interrupt_stores kind s.pc
  generalize s.interrupt kind s.pc = t at *
  rw [hnative] at hframe hstores
  have he : t.e = s.e := by rw [hframe]; exact hnative.symm
  have hsp : t.sp = s.spDown 4 := by rw [hframe]; rfl
  have hshows {k : Nat} (hk : k < 4) : t.sys.peek (t.stackAbove (4 - k)) = some (frameByte false kind s.pbr s.pc s.p k) := by
    rw [State.stackAbove_of_spDown he hsp (by omega), Nat.sub_sub_self hk.le]
    exact State.peek_of_stores hstores hram hk
  have hte : t.e = false := he.trans hnative
  obtain ⟨u, hrun, -, hsp', hflags, hpc, -, hpbr, hx, hy, hframe'⟩ := rtiRestores t (by simp [hte])
  have hp : u.p = s.p := State.p_ext fun f => by
    have h := hflags s.p (hshows (k := 3) (by decide)) f
    rw [hte] at h
    simpa [State.flag] using h
  have hxflag : u.flag .x = s.flag .x := State.flag_eq_of_p hp _
  refine ⟨u, hrun, ?_⟩
  rw [hte] at hsp'
  have hpc' : u.pc = s.pc := hpc s.pc ⟨hshows (k := 2) (by decide), hshows (k := 1) (by decide)⟩
  have hpbr' : u.pbr = s.pbr := hpbr s.pbr hte (hshows (k := 0) (by decide))
  have hx' : u.x = s.x := by
    rw [hx, hxflag, hframe]; exact index_normalized fun h => (hindex h).1
  have hy' : u.y = s.y := by
    rw [hy, hxflag, hframe]; exact index_normalized fun h => (hindex h).2
  have hs' : u.sp = s.sp := by rw [hsp']; exact State.spUp_of_spDown he hsp
  rw [hframe', hp, hx', hy', hs', hpc', hpbr']
  conv_lhs => rw [hframe]
  simp [State.setSys, hnative]

/-- Settles O53. -/
theorem interruptThenRti : Obligations.InterruptThenRti := by
  intro s hnative hindex hreset hstop hnmi hram
  obtain ⟨u, hrun, hu⟩ := State.interrupt_then_rti ((s.sample.setWaiting false).setNmiPending false) .nmi (by simpa using hnative)
    (by simpa [State.indexInv] using hindex) (by simpa [State.stackBelow] using hram)
  exact ⟨_, u, step_of_nmi hreset hstop hnmi, by simpa using hrun, hu⟩

end Sys2Proof.Machine
end

section
/-! Block moves (R360 to R362): one execution, and by induction on their number all of them. -/

namespace Sys2Proof.Machine

variable {s t u : State} {dst src : Byte} {δ : Int} {i : Instr}

/-- One execution with the two ways of counting an index register told apart by `step` and `δ` (R360, R361). -/
theorem State.moveBlock_spec (s : State) (step : Word) (dst src : Byte)
    (hstep : ∀ w v, ((trunc w (v + step)).toNat : Int) = ((v.toNat : Int) + δ) % 2 ^ widthBits w) :
    ((s.moveBlock step dst src).x.toNat : Int) = (s.x.toNat + δ) % 2 ^ widthBits s.wX ∧
    ((s.moveBlock step dst src).y.toNat : Int) = (s.y.toNat + δ) % 2 ^ widthBits s.wX ∧
    (s.moveBlock step dst src).c = s.c - 1 ∧ (s.moveBlock step dst src).dbr = dst ∧
    (s.moveBlock step dst src).pc = (if s.c = 0 then s.pc + 3 else s.pc) ∧
    s.moveBlock step dst src = { s with
      x := (s.moveBlock step dst src).x, y := (s.moveBlock step dst src).y, c := (s.moveBlock step dst src).c,
      dbr := (s.moveBlock step dst src).dbr, pc := (s.moveBlock step dst src).pc, sys := (s.moveBlock step dst src).sys } ∧
    s.stores (s.moveBlock step dst src) 1 (fun _ => addr24 dst s.y) (fun _ => s.readByte (addr24 src s.x)) := by
  rw [State.moveBlock_eq]
  refine ⟨by simpa using hstep _ _, by simpa using hstep _ _, by simp, by simp, by simp, ?frame, ?stores⟩
  case frame => apply State.ext_fields <;> simp
  case stores =>
    have hread : s.sys.readOf (s.read8 (addr24 src s.x)).2.sys := s.read8_sys _
    exact State.stores_succ (State.stores_zero hread) hread.romMap rfl (fun k hk => absurd hk (Nat.not_lt_zero k))

/-- Settles O55. -/
theorem blockMoveByte : Obligations.BlockMoveByte := by
  intro s dst src i δ hi
  obtain ⟨step, hrun, hstep⟩ : ∃ step, exec i s = .next (s.moveBlock step dst src) ∧
      ∀ w v, ((trunc w (v + step)).toNat : Int) = ((v.toNat : Int) + δ) % 2 ^ widthBits w := by
    obtain ⟨rfl, rfl⟩ | ⟨rfl, rfl⟩ := hi
    · exact ⟨1, rfl, trunc_add_one⟩
    · exact ⟨-1, rfl, trunc_sub_one⟩
  obtain ⟨hx, hy, hc, hdbr, hpc, hframe, hstores⟩ := s.moveBlock_spec step dst src hstep
  exact ⟨_, hrun, hx, hy, hc, hdbr, hpc, hframe, hstores, fun b => State.readByte_of_peek⟩

/-! ### The whole move -/

/-- `t` is `s` after `n` executions, one at least, of a block move that counts by `δ` and has not been executed again since it ended. -/
def State.movedBy (s t : State) (dst : Byte) (δ : Int) (n : Nat) : Prop :=
  (t.x.toNat : Int) = (s.x.toNat + δ * n) % 2 ^ widthBits s.wX ∧
  (t.y.toNat : Int) = (s.y.toNat + δ * n) % 2 ^ widthBits s.wX ∧
  t.c = s.c - BitVec.ofNat 16 n ∧ t.dbr = dst ∧ t.pc = (if n ≤ s.c.toNat then s.pc else s.pc + 3) ∧
  t = { s with x := t.x, y := t.y, c := t.c, dbr := t.dbr, pc := t.pc, sys := t.sys }

theorem State.movedBy_one (hi : (i = .mvn dst src ∧ δ = 1) ∨ (i = .mvp dst src ∧ δ = -1)) (s : State) :
    ∃ t, exec i s = .next t ∧ s.movedBy t dst δ 1 := by
  obtain ⟨t, hrun, hx, hy, hc, hdbr, hpc, hframe, -⟩ := blockMoveByte s dst src i δ hi
  have hlast : s.c = 0 ↔ ¬ 1 ≤ s.c.toNat := by rw [← BitVec.toNat_inj]; simp
  refine ⟨t, hrun, by simpa using hx, by simpa using hy, hc, hdbr, ?_, hframe⟩
  rw [hpc]
  by_cases h : s.c = 0
  · rw [if_pos h, if_neg (hlast.1 h)]
  · rw [if_neg h, if_pos (not_not.1 (mt hlast.2 h))]

/-- An execution before `n` more makes `n + 1`, as long as the move has not ended. -/
theorem State.movedBy_succ {n : Nat} (h1 : s.movedBy u dst δ 1) (hn : u.movedBy t dst δ n) (hc0 : 1 ≤ s.c.toNat) :
    s.movedBy t dst δ (n + 1) := by
  obtain ⟨hx, hy, hc, -, hpc, hframe⟩ := h1
  obtain ⟨hx', hy', hc', hdbr', hpc', hframe'⟩ := hn
  have hw : u.wX = s.wX := by rw [hframe]; rfl
  have hcn : u.c.toNat = s.c.toNat - 1 := by rw [hc]; bv_omega
  rw [if_pos hc0] at hpc
  have hcount {a b v : Int} {m : Nat} (h : b = (a + δ * (1 : Nat)) % m) (h' : v = (b + δ * n) % m) :
      v = (a + δ * (n + 1 : Nat)) % m := by
    rw [h', h, Int.emod_add_emod]
    push_cast
    ring_nf
  refine ⟨?_, ?_, ?_, hdbr', ?_, ?_⟩
  · exact_mod_cast hcount (by exact_mod_cast hx) (by rw [hw] at hx'; exact_mod_cast hx')
  · exact_mod_cast hcount (by exact_mod_cast hy) (by rw [hw] at hy'; exact_mod_cast hy')
  · rw [hc', hc, word_sub_sub, Nat.add_comm]
  · rw [hpc', hpc, hcn]
    by_cases h : n + 1 ≤ s.c.toNat
    · rw [if_pos (by omega), if_pos h]
    · rw [if_neg (by omega), if_neg h]
  · rw [hframe']
    conv_lhs => rw [hframe]

/-- The induction: any number of executions up to `C + 1`. -/
theorem repeatExec_blockMove (hi : (i = .mvn dst src ∧ δ = 1) ∨ (i = .mvp dst src ∧ δ = -1)) (n : Nat) (s : State)
    (hn : n ≤ s.c.toNat) : ∃ t, repeatExec i (n + 1) s = .next t ∧ s.movedBy t dst δ (n + 1) := by
  induction n generalizing s with
  | zero =>
    obtain ⟨t, hrun, hmoved⟩ := State.movedBy_one hi s
    exact ⟨t, by simp only [repeatExec, hrun], hmoved⟩
  | succ n ih =>
    obtain ⟨u, hrun, hmoved⟩ := State.movedBy_one hi s
    have hc : u.c = s.c - 1 := hmoved.2.2.1
    obtain ⟨t, hrest, hmoved'⟩ := ih u (by rw [hc]; bv_omega)
    exact ⟨t, by rw [repeatExec, hrun]; exact hrest, State.movedBy_succ hmoved hmoved' (by omega)⟩

/-- Settles O56. -/
theorem wholeBlockMove : Obligations.WholeBlockMove := by
  intro s dst src i δ hi
  obtain ⟨t, hrun, hx, hy, hc, hdbr, hpc, hframe⟩ := repeatExec_blockMove hi s.c.toNat s le_rfl
  refine ⟨t, hrun, ?c, hdbr, ?pc, by exact_mod_cast hx, by exact_mod_cast hy, hframe, ?before⟩
  case c => rw [hc]; bv_omega
  case pc => rw [hpc, if_neg (by omega)]
  case before =>
    intro n hn
    cases n with
    | zero => exact ⟨s, rfl, rfl⟩
    | succ n =>
      obtain ⟨u, hrun', -, -, -, -, hpc', -⟩ := repeatExec_blockMove hi n s (by omega)
      exact ⟨u, hrun', by rw [hpc', if_pos (by omega)]⟩

end Sys2Proof.Machine
end

section
/-! Memory and what else stands behind the bus: RAM, its mirrors and ROM (R74 to R78), recorded accesses (R75), the multiplier and divider
(R393, R436), DMA (R394 to R399). -/

namespace Sys2Proof.Machine

variable {y z : System} {a : Addr} {v : Byte}

/-! ### RAM and ROM -/

/-- Offsets below `$2000` of a system bank are the first 8 KB of RAM (R74, R77). -/
theorem route_system_ram (map : RomMap) {bank : Byte} {off : Word}
    (hb : bank.toNat < 0x40 ∨ (0x80 ≤ bank.toNat ∧ bank.toNat < 0xC0)) (ho : off.toNat < 0x2000) :
    route map (addr24 bank off) = .ram (0x7E0000 + off.toNat) := by
  have hram : ¬ (bank.toNat = 0x7E ∨ bank.toNat = 0x7F) := by omega
  have hsystem : isSystemBank bank.toNat = true := by simp [isSystemBank]; omega
  simp [route, hram, hsystem, ho]

theorem route_7E (map : RomMap) (off : Word) : route map (addr24 0x7E off) = .ram (0x7E0000 + off.toNat) := by
  simp [route, toNat_addr24]

/-- Settles O57. -/
theorem ramAndRom : Obligations.RamAndRom := by
  intro y a v
  refine ⟨fun bank off hb ho => ?_, fun k hk b => ?_, fun k hk => ?_, fun bank off hb ho => route_system_rom _ hb ho⟩
  · simp only [System.cell, route_system_ram _ hb ho, route_7E, Option.isSome_some, and_self]
  · rw [System.write8_eq_store8 _ _ _ (by simp [hk])]
    exact System.store8_peek_ram _ _ _ _ hk
  · rw [System.write8_eq_store8 _ _ _ (by simp [hk])]
    simp [System.store8, hk]

/-! ### Accesses outside RAM and ROM -/

theorem System.route_of_cell_none (h : y.cell a = none) : (∃ r, route y.romMap a = .io r) ∨ route y.romMap a = .unmapped := by
  cases hr : route y.romMap a with
  | ram k => simp [System.cell, hr] at h
  | rom k => simp [System.cell, hr] at h
  | io r => exact .inl ⟨r, rfl⟩
  | unmapped => exact .inr rfl

/-- A store outside RAM and ROM is an event, and leaves memory alone (R75; log 7). -/
theorem System.store8_of_cell_none (h : y.cell a = none) (v : Byte) :
    (y.store8 a v).busLog = .write a v :: y.busLog ∧ (y.store8 a v).mem = y.mem := by
  obtain ⟨r, hr⟩ | hr := System.route_of_cell_none h <;> simp [System.store8, hr]

/-- A platform register holds the byte stored last, and every other one what it held (log 7). -/
theorem System.store8_ioGet {r : Nat} (h : route y.romMap a = .io r) (v : Byte) (r' : Nat) :
    (y.store8 a v).ioGet r' = if r' = r then v else y.ioGet r' := by
  simp [System.store8, h, System.ioGet, Memory.get_set]

/-- A write to a platform register other than the DMA start register latches it and starts what it starts (R75, R393). -/
theorem System.write8_register {r : Nat} (h : route y.romMap a = .io r) (hr : r ≠ 0x420B) (v : Byte) :
    y.write8 a v = mathWrite r v { y with io := y.io.set ioUnlisted r v, busLog := .write a v :: y.busLog } := by
  rw [System.write8_eq_store8 _ _ _ (by simp [h, hr]), System.store8, h]

/-- Settles O58. -/
theorem busAccessesRecorded : Obligations.BusAccessesRecorded := by
  intro y a v h
  refine ⟨?_, fun hdma => ?_⟩
  · obtain ⟨r, hr⟩ | hr := System.route_of_cell_none h <;> simp [System.afterRead, hr]
  · rw [System.write8_eq_store8 _ _ _ hdma]
    obtain ⟨hlog, hmem⟩ := System.store8_of_cell_none h v
    exact ⟨hlog, hmem, fun r hr => by simp [System.store8_ioGet hr]⟩

/-! ### The multiplier and the divider -/

/-- The registers of the CPU and of DMA are where they are under every mapping (R74). -/
theorem route_cpu_register (map : RomMap) {off : Word} (h : 0x4000 ≤ off.toNat ∧ off.toNat < 0x4220) :
    route map (addr24 0 off) = .io off.toNat := by
  have hlow : ¬ off.toNat < 0x2000 := by omega
  have hhigh : ¬ 0x8000 ≤ off.toNat := by omega
  have hio : isIoOffset off.toNat = true := by simp [isIoOffset]; omega
  simp [route, isSystemBank, hlow, hhigh, hio]

/-- `n` instructions start (R436). -/
theorem System.tickMath_iterate (y : System) (n : Nat) :
    System.tickMath^[n] y = { y with rddivWait := y.rddivWait - n, rdmpyWait := y.rdmpyWait - n } := by
  induction n with
  | zero => rfl
  | succ n ih => rw [Function.iterate_succ_apply', ih]; simp [System.tickMath, Nat.sub_sub]

theorem hi8_lo8_toNat (v : Word) : (hi8 v).toNat * 256 + (lo8 v).toNat = v.toNat := by rw [← toNat_join16, join16_hi_lo]

/-- A product or remainder that is ready is what `$4217` and `$4216` read (R393). -/
theorem System.readByte_rdmpy (h : z.rdmpyWait = 0) :
    (z.readByte 0x004217).toNat * 256 + (z.readByte 0x004216).toNat = z.rdmpy.toNat := by
  have hhigh : z.readByte 0x004217 = hi8 z.rdmpy := by
    simp only [System.readByte, show route z.romMap 0x004217 = .io 0x4217 from route_cpu_register _ (off := 0x4217) (by decide)]
    simp [System.ioRead, h]
  have hlow : z.readByte 0x004216 = lo8 z.rdmpy := by
    simp only [System.readByte, show route z.romMap 0x004216 = .io 0x4216 from route_cpu_register _ (off := 0x4216) (by decide)]
    simp [System.ioRead, h]
  rw [hhigh, hlow, hi8_lo8_toNat]

/-- A quotient that is ready is what `$4215` and `$4214` read (R393). -/
theorem System.readByte_rddiv (h : z.rddivWait = 0) :
    (z.readByte 0x004215).toNat * 256 + (z.readByte 0x004214).toNat = z.rddiv.toNat := by
  have hhigh : z.readByte 0x004215 = hi8 z.rddiv := by
    simp only [System.readByte, show route z.romMap 0x004215 = .io 0x4215 from route_cpu_register _ (off := 0x4215) (by decide)]
    simp [System.ioRead, h]
  have hlow : z.readByte 0x004214 = lo8 z.rddiv := by
    simp only [System.readByte, show route z.romMap 0x004214 = .io 0x4214 from route_cpu_register _ (off := 0x4214) (by decide)]
    simp [System.ioRead, h]
  rw [hhigh, hlow, hi8_lo8_toNat]

theorem toNat_product (a b : Byte) : (product a b).toNat = a.toNat * b.toNat := by
  have h : a.toNat * b.toNat < 256 * 256 := Nat.mul_lt_mul'' a.isLt b.isLt
  rw [product, BitVec.toNat_mul, toNat_zext16, toNat_zext16, Nat.mod_eq_of_lt (by omega)]

theorem toNat_quotient (n : Word) (d : Byte) : (quotient n d).toNat = if d = 0 then 0xFFFF else n.toNat / d.toNat := by
  unfold quotient
  split
  · rfl
  · rw [BitVec.toNat_udiv, toNat_zext16]

theorem toNat_remainder (n : Word) (d : Byte) : (remainder n d).toNat = if d = 0 then n.toNat else n.toNat % d.toNat := by
  unfold remainder
  split
  · rfl
  · rw [BitVec.toNat_umod, toNat_zext16]

/-- A write to `$4203` starts a multiplication (R393). -/
theorem System.write8_4203 (y : System) (v : Byte) :
    (y.write8 0x004203 v).rdmpy = product (y.ioGet 0x4202) v ∧ (y.write8 0x004203 v).rdmpyWait = 5 := by
  have hroute : route y.romMap 0x004203 = .io 0x4203 := route_cpu_register _ (off := 0x4203) (by decide)
  rw [System.write8_register hroute (by decide)]
  simp [mathWrite, System.ioGet, Memory.get_set, multiplyDelay]

/-- A write to `$4206` starts a division (R393). -/
theorem System.write8_4206 (y : System) (v : Byte) :
    (y.write8 0x004206 v).rddiv = quotient (join16 (y.ioGet 0x4205) (y.ioGet 0x4204)) v ∧
    (y.write8 0x004206 v).rdmpy = remainder (join16 (y.ioGet 0x4205) (y.ioGet 0x4204)) v ∧
    (y.write8 0x004206 v).rddivWait = 9 ∧ (y.write8 0x004206 v).rdmpyWait = 9 := by
  have hroute : route y.romMap 0x004206 = .io 0x4206 := route_cpu_register _ (off := 0x4206) (by decide)
  rw [System.write8_register hroute (by decide)]
  simp [mathWrite, System.ioGet, Memory.get_set, divideDelay]

/-- Settles O59. -/
theorem multiplierAndDivider : Obligations.MultiplierAndDivider := by
  intro y v n
  refine ⟨fun hn z hz => ?_, fun hn z hz => ?_⟩
  · obtain ⟨hproduct, hwait⟩ := y.write8_4203 v
    rw [System.tickMath_iterate] at hz
    have hready : z.rdmpyWait = 0 := by rw [hz]; simp only [hwait]; omega
    rw [System.readByte_rdmpy hready, hz, hproduct, toNat_product]
  · obtain ⟨hquotient, hremainder, hwait, hwait'⟩ := y.write8_4206 v
    rw [System.tickMath_iterate] at hz
    have hready : z.rddivWait = 0 := by rw [hz]; simp only [hwait]; omega
    have hready' : z.rdmpyWait = 0 := by rw [hz]; simp only [hwait']; omega
    rw [System.readByte_rddiv hready, System.readByte_rdmpy hready', hz, hquotient, hremainder, toNat_quotient, toNat_remainder,
      toNat_join16]
    exact ⟨rfl, rfl⟩

/-! ### DMA -/

/-- No port of the CPU's `$21xx` page is RAM or ROM (R74, R396). -/
theorem DmaChannel.cell_portSide (ch : DmaChannel) (i : Nat) (y : System) : y.cell (ch.portSide i) = none := by
  generalize hb : ch.target + BitVec.ofNat 8 (dmaPattern ch.mode i) = b
  have hoff : (join16 0x21 b).toNat = 0x2100 + b.toNat := toNat_join16 _ _
  have hlow : ¬ (join16 0x21 b).toNat < 0x2000 := by omega
  have hhigh : ¬ 0x8000 ≤ (join16 0x21 b).toNat := by have := b.isLt; omega
  simp only [System.cell, DmaChannel.portSide, hb, route, addr24_bank, addr24_off, hlow, hhigh, isSystemBank]
  cases isIoOffset (join16 0x21 b).toNat <;> simp

/-- Where memory shows a byte, a read depends on memory and its mapping only. -/
theorem System.readByte_congr (h : (y.cell a).isSome = true) (hmem : z.mem = y.mem) (hmap : z.romMap = y.romMap) :
    z.readByte a = y.readByte a := by
  obtain ⟨k, hk⟩ := Option.isSome_iff_exists.1 h
  unfold System.readByte
  rw [hmap]
  unfold System.cell at hk
  split at hk <;> simp_all

theorem System.afterRead_of_cell (h : (y.cell a).isSome = true) : y.afterRead a = y := by
  obtain ⟨k, hk⟩ := Option.isSome_iff_exists.1 h
  unfold System.afterRead
  unfold System.cell at hk
  split at hk <;> simp_all

/-- A transfer to the port, as far as it has gone: memory is as it was and the history has each byte's write, the newest first (R399). -/
theorem DmaChannel.moveBytes_toPort {ch : DmaChannel} (hdir : ch.toCpu = false) (k : Nat)
    (hsrc : ∀ i < k, (y.cell (ch.cpuSide i)).isSome = true) :
    (ch.moveBytes k y).mem = y.mem ∧ (ch.moveBytes k y).busLog =
      ((List.range k).reverse.map fun i => BusEvent.write (ch.portSide i) (y.readByte (ch.cpuSide i))) ++ y.busLog := by
  induction k with
  | zero => exact ⟨rfl, rfl⟩
  | succ k ih =>
    obtain ⟨hmem, hlog⟩ := ih fun i hi => hsrc i (by omega)
    have hmap : (ch.moveBytes k y).romMap = y.romMap := DmaChannel.moveBytes_romMap y ch k
    have hcell : ((ch.moveBytes k y).cell (ch.cpuSide k)).isSome = true := by
      simpa [System.cell, hmap] using hsrc k (by omega)
    have hread := System.readByte_congr (hsrc k (by omega)) hmem hmap
    obtain ⟨hlog', hmem'⟩ := System.store8_of_cell_none (ch.cell_portSide k (ch.moveBytes k y)) (y.readByte (ch.cpuSide k))
    have hmove : ch.moveBytes (k + 1) y = (ch.moveBytes k y).store8 (ch.portSide k) (y.readByte (ch.cpuSide k)) := by
      simp [DmaChannel.moveBytes, DmaChannel.moveByte, hdir, System.afterRead_of_cell hcell, hread]
    rw [hmove, hmem', hlog', hmem, hlog, List.range_succ]
    simp

/-- A start byte with one bit set runs that channel alone (R394). -/
theorem System.runChannels_twoPow (y : System) {n : Nat} (hn : n < 8) {k : Nat} (hk : k ≤ 8) :
    y.runChannels (BitVec.twoPow 8 n) k = if n < k then y.runChannel n else y := by
  induction k with
  | zero => rfl
  | succ k ih =>
    rw [System.runChannels, ih (by omega), BitVec.getLsbD_twoPow]
    by_cases hkn : n = k
    · simp [hkn, show k < 8 by omega]
    · by_cases hlt : n < k
      · simp [hkn, hlt, show n < k + 1 by omega]
      · simp [hkn, hlt, show ¬ n < k + 1 by omega]

/-- The channel's registers after its transfer (R399). -/
theorem System.runChannel_ioGet (y : System) (n : Nat) :
    (y.runChannel n).ioGet (0x4305 + 16 * n) = 0 ∧ (y.runChannel n).ioGet (0x4306 + 16 * n) = 0 ∧
    (y.runChannel n).ioGet (0x4303 + 16 * n) = hi8 ((y.dmaChannel n).sourceAt (y.dmaChannel n).count) ∧
    (y.runChannel n).ioGet (0x4302 + 16 * n) = lo8 ((y.dmaChannel n).sourceAt (y.dmaChannel n).count) := by
  have hreg (k : Nat) : 0x4300 + k + 16 * n = 0x4300 + 16 * n + k := by omega
  simp only [show 0x4305 = 0x4300 + 5 from rfl, show 0x4306 = 0x4300 + 6 from rfl, show 0x4303 = 0x4300 + 3 from rfl,
    show 0x4302 = 0x4300 + 2 from rfl, hreg]
  simp [System.runChannel, System.ioSet_ioGet]

/-- Settles O60. -/
theorem dmaToPort : Obligations.DmaToPort := by
  rintro y n start hn rfl ch z rfl rfl
  have hroute : route y.romMap 0x00420B = .io 0x420B := route_cpu_register _ (off := 0x420B) (by decide)
  have hcell : y.cell 0x00420B = none := by simp only [System.cell, hroute]
  obtain ⟨hlog, hmem⟩ := System.store8_of_cell_none hcell (BitVec.twoPow 8 n)
  have hrun : y.write8 0x00420B (BitVec.twoPow 8 n) = ((y.store8 0x00420B (BitVec.twoPow 8 n)).runChannel n).ioSet 0x420B 0 := by
    rw [System.write8, if_pos hroute, System.runDma, System.runChannels_twoPow _ hn le_rfl, if_pos hn]
  have hmap : (y.store8 0x00420B (BitVec.twoPow 8 n)).romMap = y.romMap := System.store8_romMap _ _ _
  rw [hrun]
  generalize y.store8 0x00420B (BitVec.twoPow 8 n) = u at *
  obtain ⟨hcount, hcount', hhigh, hlow⟩ := u.runChannel_ioGet n
  have hother {r : Nat} (hr : 0x4300 ≤ r) : ((u.runChannel n).ioSet 0x420B 0).ioGet r = (u.runChannel n).ioGet r := by
    rw [System.ioSet_ioGet, if_neg (by omega)]
  refine ⟨by simp [System.ioSet_ioGet], ?_, ?_, ?_, fun hdir hsrc => ?_⟩
  · rw [hother (by omega), hcount]
  · rw [hother (by omega), hcount']
  · rw [hother (by omega), hother (by omega), hhigh, hlow, join16_hi_lo]
  · have hsrc' : ∀ i < (u.dmaChannel n).count, (u.cell ((u.dmaChannel n).cpuSide i)).isSome = true := by
      simpa [System.cell, hmap] using hsrc
    obtain ⟨hmem', hlog'⟩ := DmaChannel.moveBytes_toPort hdir (u.dmaChannel n).count hsrc'
    refine ⟨hmem'.trans hmem, hlog'.trans ?_⟩
    rw [hlog]
    congr 1
    refine List.map_congr_left fun i hi => ?_
    rw [System.readByte_congr (hsrc i (by simpa using hi)) hmem hmap]

end Sys2Proof.Machine
end
